-- ==== Sys2Proof/Word.lean ====
section
/-! DEFINITION. The machine's words: bytes, 16-bit words, register indexes, key codes
(spec/00_scope.md R7, R19, R20). -/

namespace Sys2Proof

/-- An 8-bit value: a V register, a timer, a memory cell, the immediate NN (R7, R101). -/
abbrev Byte := BitVec 8

/-- A 16-bit value: I, pc, a stack entry, an opcode (R7, R100). -/
abbrev Word := BitVec 16

/-- The index of one of V0..VF: the 4-bit field X or Y of an opcode (spec/10_state.md R30, R31). -/
abbrev Reg := Fin 16

/-- The index of VF, the flag register (spec/10_state.md R32). -/
abbrev flagReg : Reg := 0xF

/-- A key code, a nibble 0x0..0xF (spec/44_input_timer.md R240). -/
abbrev Key := BitVec 4

end Sys2Proof
end

