-- ==== Sys2Proof/Syntax.lean ====
section
/-! DEFINITION. The 34 instruction forms of spec/30_encoding.md R106, one constructor per row of
spec/opcode_table.json, and the reasons a word or a byte list is no instruction. -/

namespace Sys2Proof

/-- An instruction. A constructor's docstring begins with its form, the spec's normative name
(R111). Operands: registers `x`, `y`; the address `nnn`, zero-extended to 16 bits (R103); the byte
`nn`; the row count `n`. `Instr.WellFormed` bounds `nnn` and `n`. -/
inductive Instr where
  /-- 00E0: clear the framebuffer (R130). -/
  | cls
  /-- 00EE: return from a call (R152). -/
  | ret
  /-- 1NNN: jump (R153). -/
  | jp (nnn : Word)
  /-- 2NNN: call (R154). -/
  | call (nnn : Word)
  /-- 3XNN: skip if V[X] = NN (R156). -/
  | seImm (x : Reg) (nn : Byte)
  /-- 4XNN: skip if V[X] differs from NN (R157). -/
  | sneImm (x : Reg) (nn : Byte)
  /-- 5XY0: skip if V[X] = V[Y] (R158). -/
  | seReg (x y : Reg)
  /-- 6XNN: load NN into V[X] (R183). -/
  | ldImm (x : Reg) (nn : Byte)
  /-- 7XNN: add NN to V[X], no flag (R184). -/
  | addImm (x : Reg) (nn : Byte)
  /-- 8XY0: copy V[Y] into V[X] (R186). -/
  | ldReg (x y : Reg)
  /-- 8XY1: OR V[Y] into V[X] (R187). -/
  | orReg (x y : Reg)
  /-- 8XY2: AND V[Y] into V[X] (R188). -/
  | andReg (x y : Reg)
  /-- 8XY3: XOR V[Y] into V[X] (R189). -/
  | xorReg (x y : Reg)
  /-- 8XY4: add V[Y] to V[X], VF = carry (R191). -/
  | addReg (x y : Reg)
  /-- 8XY5: subtract V[Y] from V[X], VF = not borrow (R192). -/
  | subReg (x y : Reg)
  /-- 8XY6: shift V[X] right by one, VF = the bit shifted out; Y is ignored (R193, R109). -/
  | shr (x y : Reg)
  /-- 8XY7: V[X] = V[Y] - V[X], VF = not borrow (R194). -/
  | subnReg (x y : Reg)
  /-- 8XYE: shift V[X] left by one, VF = the bit shifted out; Y is ignored (R195, R109). -/
  | shl (x y : Reg)
  /-- 9XY0: skip if V[X] differs from V[Y] (R159). -/
  | sneReg (x y : Reg)
  /-- ANNN: load NNN into I (R220). -/
  | ldI (nnn : Word)
  /-- BNNN: jump to NNN + V0 (R160). -/
  | jpV0 (nnn : Word)
  /-- CXNN: V[X] = random byte AND NN (R196). -/
  | rnd (x : Reg) (nn : Byte)
  /-- DXYN: draw an N-row sprite at (V[X], V[Y]) (R133). -/
  | drw (x y : Reg) (n : Nat)
  /-- EX9E: skip if the pressed key is V[X] (R244). -/
  | skp (x : Reg)
  /-- EXA1: skip if the pressed key is not V[X] (R245). -/
  | sknp (x : Reg)
  /-- FX07: copy DT into V[X] (R248). -/
  | ldRegDt (x : Reg)
  /-- FX0A: wait for a key and store it in V[X] (R250). -/
  | waitKey (x : Reg)
  /-- FX15: set DT to V[X] (R252). -/
  | ldDtReg (x : Reg)
  /-- FX18: set ST to V[X] (R254). -/
  | ldStReg (x : Reg)
  /-- FX1E: add V[X] to I (R222). -/
  | addI (x : Reg)
  /-- FX29: point I at the glyph of V[X] (R224). -/
  | ldGlyph (x : Reg)
  /-- FX33: store the decimal digits of V[X] at I (R226). -/
  | bcd (x : Reg)
  /-- FX55: store V0..VX at I (R228). -/
  | storeRegs (x : Reg)
  /-- FX65: load V0..VX from I (R230). -/
  | loadRegs (x : Reg)
deriving DecidableEq, Repr

/-- Why the decoder gives no instruction. -/
inductive Reject where
  /-- The word matches no row of the opcode table (R107). The core then faults with UnknownOpcode. -/
  | unknownOpcode (w : Word)
  /-- Fewer than two bytes were given. The core never asks for this: its fetch reads two (R77). -/
  | truncated
deriving DecidableEq, Repr

end Sys2Proof
end

