-- ==== Sys2Proof/WellFormed.lean ====
section
/-! DEFINITION. Which instructions have an encoding: an address NNN has 12 bits and a row count N has
4 (spec/30_encoding.md R101, R103). Registers and NN are in range by their types. -/

namespace Sys2Proof

/-- NNN is a 12-bit address, 0..0xFFF (R103). -/
def addressFits (nnn : Word) : Bool := nnn.toNat < 0x1000

/-- N is a count of 0..15 sprite rows (R103). -/
def rowCountFits (n : Nat) : Bool := n < 16

/-- The check on an instruction's operands. -/
def Instr.wellFormed : Instr → Bool
  | .jp nnn | .call nnn | .ldI nnn | .jpV0 nnn => addressFits nnn
  | .drw _ _ n => rowCountFits n
  | .cls | .ret => true
  | .seImm _ _ | .sneImm _ _ | .ldImm _ _ | .addImm _ _ | .rnd _ _ => true
  | .seReg _ _ | .sneReg _ _ => true
  | .ldReg _ _ | .orReg _ _ | .andReg _ _ | .xorReg _ _ => true
  | .addReg _ _ | .subReg _ _ | .shr _ _ | .subnReg _ _ | .shl _ _ => true
  | .skp _ | .sknp _ | .ldRegDt _ | .waitKey _ | .ldDtReg _ | .ldStReg _ => true
  | .addI _ | .ldGlyph _ | .bcd _ | .storeRegs _ | .loadRegs _ => true

/-- An instruction whose operands fit their fields. -/
abbrev Instr.WellFormed (i : Instr) : Prop := i.wellFormed = true

end Sys2Proof
end

