-- ==== Sys2Proof/Decode.lean ====
section
/-! DEFINITION. The decoder (spec/30_encoding.md R100 to R107) and the encoder, from the same tables.
A word is decoded by its high nibble, then by the low nibble (5, 8, 9), the low byte (E, F) or the
whole word (0): exactly the map of R105. -/

namespace Sys2Proof

/-- OP, bits 15:12 (R101). -/
def opOf (w : Word) : BitVec 4 := w.extractLsb' 12 4

/-- NNN, bits 11:0, zero-extended to 16 bits (R101, R103). -/
def nnnOf (w : Word) : Word := (w.extractLsb' 0 12).setWidth 16

/-- The register that a 4-bit field selects (R103). -/
def regOfBits (b : BitVec 4) : Reg := ⟨b.toNat, b.isLt⟩

/-- X, bits 11:8 (R101). -/
def xOf (w : Word) : Reg := regOfBits (w.extractLsb' 8 4)

/-- Y, bits 7:4 (R101). -/
def yOf (w : Word) : Reg := regOfBits (w.extractLsb' 4 4)

/-- N, bits 3:0 (R101). -/
def nOf (w : Word) : BitVec 4 := w.extractLsb' 0 4

/-- NN, bits 7:0 (R101). -/
def nnOf (w : Word) : Byte := w.extractLsb' 0 8

/-- Family 0: the two fixed words (R105). -/
def decodeFixed (w : Word) : Except Reject Instr :=
  if w = 0x00E0 then .ok .cls
  else if w = 0x00EE then .ok .ret
  else .error (.unknownOpcode w)

/-- Family 8: the sub-operation is N (R105). -/
def decodeAlu (w : Word) : Except Reject Instr :=
  match nOf w with
  | 0x0#4 => .ok (.ldReg (xOf w) (yOf w))
  | 0x1#4 => .ok (.orReg (xOf w) (yOf w))
  | 0x2#4 => .ok (.andReg (xOf w) (yOf w))
  | 0x3#4 => .ok (.xorReg (xOf w) (yOf w))
  | 0x4#4 => .ok (.addReg (xOf w) (yOf w))
  | 0x5#4 => .ok (.subReg (xOf w) (yOf w))
  | 0x6#4 => .ok (.shr (xOf w) (yOf w))
  | 0x7#4 => .ok (.subnReg (xOf w) (yOf w))
  | 0xE#4 => .ok (.shl (xOf w) (yOf w))
  | _ => .error (.unknownOpcode w)

/-- Family E: the sub-operation is NN (R105). -/
def decodeKey (w : Word) : Except Reject Instr :=
  match nnOf w with
  | 0x9E#8 => .ok (.skp (xOf w))
  | 0xA1#8 => .ok (.sknp (xOf w))
  | _ => .error (.unknownOpcode w)

/-- Family F: the sub-operation is NN (R105). -/
def decodeMisc (w : Word) : Except Reject Instr :=
  match nnOf w with
  | 0x07#8 => .ok (.ldRegDt (xOf w))
  | 0x0A#8 => .ok (.waitKey (xOf w))
  | 0x15#8 => .ok (.ldDtReg (xOf w))
  | 0x18#8 => .ok (.ldStReg (xOf w))
  | 0x1E#8 => .ok (.addI (xOf w))
  | 0x29#8 => .ok (.ldGlyph (xOf w))
  | 0x33#8 => .ok (.bcd (xOf w))
  | 0x55#8 => .ok (.storeRegs (xOf w))
  | 0x65#8 => .ok (.loadRegs (xOf w))
  | _ => .error (.unknownOpcode w)

/-- The single dispatch of R104, by the map of R105. The last arm is OP = 0xF, the one value left. -/
def decodeWord (w : Word) : Except Reject Instr :=
  match opOf w with
  | 0x0#4 => decodeFixed w
  | 0x1#4 => .ok (.jp (nnnOf w))
  | 0x2#4 => .ok (.call (nnnOf w))
  | 0x3#4 => .ok (.seImm (xOf w) (nnOf w))
  | 0x4#4 => .ok (.sneImm (xOf w) (nnOf w))
  | 0x5#4 => if nOf w = 0 then .ok (.seReg (xOf w) (yOf w)) else .error (.unknownOpcode w)
  | 0x6#4 => .ok (.ldImm (xOf w) (nnOf w))
  | 0x7#4 => .ok (.addImm (xOf w) (nnOf w))
  | 0x8#4 => decodeAlu w
  | 0x9#4 => if nOf w = 0 then .ok (.sneReg (xOf w) (yOf w)) else .error (.unknownOpcode w)
  | 0xA#4 => .ok (.ldI (nnnOf w))
  | 0xB#4 => .ok (.jpV0 (nnnOf w))
  | 0xC#4 => .ok (.rnd (xOf w) (nnOf w))
  | 0xD#4 => .ok (.drw (xOf w) (yOf w) (nOf w).toNat)
  | 0xE#4 => decodeKey w
  | _ => decodeMisc w

/-- `hi ++ lo`: the opcode of two bytes, the first one in bits 15:8 (R100, spec/20_memory.md R77). -/
def wordOfBytes (hi lo : Byte) : Word := hi ++ lo

/-- The byte of a word at the lower address: bits 15:8 (R100). -/
def highByte (w : Word) : Byte := w.extractLsb' 8 8

/-- The byte of a word at the higher address: bits 7:0 (R100). -/
def lowByte (w : Word) : Byte := w.extractLsb' 0 8

/-- The decoder on bytes: the instruction of the first two, and the bytes after them (R100). -/
def decode : List Byte → Except Reject (Instr × List Byte)
  | hi :: lo :: rest =>
    match decodeWord (wordOfBytes hi lo) with
    | .ok i => .ok (i, rest)
    | .error r => .error r
  | [] | [_] => .error .truncated

/-- The instruction word of `nbits` bits that the opcode table numbers as `w` (bit 0 the least
significant): its bits above `nbits` are 0. -/
def tableWord (nbits w : Nat) : Word := BitVec.ofNat 16 (w % 2 ^ nbits)

/-- The decoder's reading of a word numbered as spec/opcode_table.json numbers it, laid out as two
bytes, high byte first (R100). -/
def decodeTableWord (nbits w : Nat) : Option Instr :=
  match decode [highByte (tableWord nbits w), lowByte (tableWord nbits w)] with
  | .ok (i, _) => some i
  | .error _ => none

/-- The 4-bit field that selects a register (R103). -/
def bitsOfReg (r : Reg) : BitVec 4 := BitVec.ofNat 4 r.val

/-- Layout ADDR: OP and NNN (R102). -/
def addrWord (op : BitVec 4) (nnn : Word) : Word := op ++ nnn.setWidth 12

/-- Layouts REG_IMM and REG_SUB: OP, X and the low byte (R102). -/
def regByteWord (op : BitVec 4) (x : Reg) (nn : Byte) : Word := op ++ bitsOfReg x ++ nn

/-- Layouts REG_REG and DRAW: OP, X, Y and the low nibble (R102). -/
def regRegWord (op : BitVec 4) (x y : Reg) (n : BitVec 4) : Word :=
  op ++ bitsOfReg x ++ bitsOfReg y ++ n

/-- The word of an instruction: the match values and layouts of R106 and R102. -/
def encode : Instr → Word
  | .cls => 0x00E0
  | .ret => 0x00EE
  | .jp nnn => addrWord 0x1 nnn
  | .call nnn => addrWord 0x2 nnn
  | .seImm x nn => regByteWord 0x3 x nn
  | .sneImm x nn => regByteWord 0x4 x nn
  | .seReg x y => regRegWord 0x5 x y 0x0
  | .ldImm x nn => regByteWord 0x6 x nn
  | .addImm x nn => regByteWord 0x7 x nn
  | .ldReg x y => regRegWord 0x8 x y 0x0
  | .orReg x y => regRegWord 0x8 x y 0x1
  | .andReg x y => regRegWord 0x8 x y 0x2
  | .xorReg x y => regRegWord 0x8 x y 0x3
  | .addReg x y => regRegWord 0x8 x y 0x4
  | .subReg x y => regRegWord 0x8 x y 0x5
  | .shr x y => regRegWord 0x8 x y 0x6
  | .subnReg x y => regRegWord 0x8 x y 0x7
  | .shl x y => regRegWord 0x8 x y 0xE
  | .sneReg x y => regRegWord 0x9 x y 0x0
  | .ldI nnn => addrWord 0xA nnn
  | .jpV0 nnn => addrWord 0xB nnn
  | .rnd x nn => regByteWord 0xC x nn
  | .drw x y n => regRegWord 0xD x y (BitVec.ofNat 4 n)
  | .skp x => regByteWord 0xE x 0x9E
  | .sknp x => regByteWord 0xE x 0xA1
  | .ldRegDt x => regByteWord 0xF x 0x07
  | .waitKey x => regByteWord 0xF x 0x0A
  | .ldDtReg x => regByteWord 0xF x 0x15
  | .ldStReg x => regByteWord 0xF x 0x18
  | .addI x => regByteWord 0xF x 0x1E
  | .ldGlyph x => regByteWord 0xF x 0x29
  | .bcd x => regByteWord 0xF x 0x33
  | .storeRegs x => regByteWord 0xF x 0x55
  | .loadRegs x => regByteWord 0xF x 0x65

/-- The bits that an instruction's form fixes: the mask column of R106. -/
def formMask : Instr → Word
  | .cls | .ret => 0xFFFF
  | .jp _ | .call _ | .ldI _ | .jpV0 _ => 0xF000
  | .seImm _ _ | .sneImm _ _ | .ldImm _ _ | .addImm _ _ | .rnd _ _ | .drw _ _ _ => 0xF000
  | .seReg _ _ | .sneReg _ _ => 0xF00F
  | .ldReg _ _ | .orReg _ _ | .andReg _ _ | .xorReg _ _ => 0xF00F
  | .addReg _ _ | .subReg _ _ | .shr _ _ | .subnReg _ _ | .shl _ _ => 0xF00F
  | .skp _ | .sknp _ | .ldRegDt _ | .waitKey _ | .ldDtReg _ | .ldStReg _ => 0xF0FF
  | .addI _ | .ldGlyph _ | .bcd _ | .storeRegs _ | .loadRegs _ => 0xF0FF

/-- The value of the fixed bits: the match column of R106. -/
def formMatch : Instr → Word
  | .cls => 0x00E0
  | .ret => 0x00EE
  | .jp _ => 0x1000
  | .call _ => 0x2000
  | .seImm _ _ => 0x3000
  | .sneImm _ _ => 0x4000
  | .seReg _ _ => 0x5000
  | .ldImm _ _ => 0x6000
  | .addImm _ _ => 0x7000
  | .ldReg _ _ => 0x8000
  | .orReg _ _ => 0x8001
  | .andReg _ _ => 0x8002
  | .xorReg _ _ => 0x8003
  | .addReg _ _ => 0x8004
  | .subReg _ _ => 0x8005
  | .shr _ _ => 0x8006
  | .subnReg _ _ => 0x8007
  | .shl _ _ => 0x800E
  | .sneReg _ _ => 0x9000
  | .ldI _ => 0xA000
  | .jpV0 _ => 0xB000
  | .rnd _ _ => 0xC000
  | .drw _ _ _ => 0xD000
  | .skp _ => 0xE09E
  | .sknp _ => 0xE0A1
  | .ldRegDt _ => 0xF007
  | .waitKey _ => 0xF00A
  | .ldDtReg _ => 0xF015
  | .ldStReg _ => 0xF018
  | .addI _ => 0xF01E
  | .ldGlyph _ => 0xF029
  | .bcd _ => 0xF033
  | .storeRegs _ => 0xF055
  | .loadRegs _ => 0xF065

end Sys2Proof
end

