-- ==== Sys2Proof/Machine/Flags.lean ====
section
/-! DEFINITION. The values VF takes (spec/42_alu.md R180, R190 to R195; spec/40_display.md R133). -/

namespace Sys2Proof.Machine

/-- A flag as the byte VF holds: 1 or 0. -/
def flagByte (c : Bool) : Byte := if c then 1 else 0

/-- 8XY4: the carry of a + b, b > 255 - a (R191). -/
def carryOfAdd (a b : Byte) : Byte := flagByte (decide (b.toNat > 255 - a.toNat))

/-- 8XY5 and 8XY7: 0 if the subtrahend exceeds the minuend, else 1 (R192, R194). -/
def notBorrow (minuend subtrahend : Byte) : Byte :=
  if subtrahend.toNat > minuend.toNat then 0 else 1

/-- 8XY6: the bit shifted out, bit 0 (R193). -/
def shiftedOutRight (a : Byte) : Byte := a &&& 1

/-- 8XYE: the bit shifted out, bit 7 (R195). -/
def shiftedOutLeft (a : Byte) : Byte := (a &&& 0x80) / 128

end Sys2Proof.Machine
end

