-- ==== Sys2Proof/Config.lean ====
section
/-! DEFINITION. What is fixed for this machine: the parameters of spec/00_scope.md R7, the font of
spec/70_reset_and_hazards.md R303, and the free values: the environment's answers, which no
definition fixes (spec/92_eei_decisions.md, "Parameters left open"). -/

namespace Sys2Proof

/-- The timer ticks that fall in one gap between two steps: how many `tick_DT` and how many
`tick_ST` (spec/60_exceptions.md R276). Their order in the gap does not matter, since each tick
changes its own timer only (R275). -/
structure Gap where
  dtTicks : Nat
  stTicks : Nat
deriving DecidableEq, Repr, Inhabited

/-- What the host port does with a legal write or load in the halted core, where the spec's rules
differ and no entry of spec/90_conflicts.md settles it (log 16). The host's transitions take it as an
argument, so that each reading is modelled whole and a claim says which one it is about. -/
inductive HaltedPort where
  /-- spec/00_scope.md R12: the host may write any piece of state, so the write takes effect. -/
  | takesWrites
  /-- spec/60_exceptions.md R278: a tick is the only change before reset, so the write is refused. -/
  | refusesWrites
deriving DecidableEq, Repr

namespace Config

/-- MEM_SIZE, the number of memory cells (R7, spec/20_memory.md R70). DESIGN CHOICE (log 1): the
spec's own default, 4096. -/
def memSize : Nat := 4096

/-- STACK_CAP, the number of stack entries (R7, spec/10_state.md R40; log 2). -/
def stackCap : Nat := 16

/-- FB_ROWS (R7). -/
def fbRows : Nat := 32

/-- FB_COLS (R7). -/
def fbCols : Nat := 64

/-- FONT_BASE, the address of the first font byte (R7). -/
def fontBase : Nat := 0x000

/-- FONT_SIZE, the number of font bytes (R7). -/
def fontSize : Nat := 80

/-- PROG_BASE, the reset pc and the load address (R7). -/
def progBase : Nat := 0x200

/-- The glyph of the digit 0, the one glyph the source gives (spec/70_reset_and_hazards.md R303). -/
def glyphZero : List Byte := [0xF0, 0x90, 0x90, 0x90, 0xF0]

/-- The glyphs of 1..7. PRESUMED (log 3): the spec's default, from general knowledge (R303). -/
def glyphsOneToSeven : List Byte :=
  [0x20, 0x60, 0x20, 0x20, 0x70] ++ [0xF0, 0x10, 0xF0, 0x80, 0xF0] ++
  [0xF0, 0x10, 0xF0, 0x10, 0xF0] ++ [0x90, 0x90, 0xF0, 0x10, 0x10] ++
  [0xF0, 0x80, 0xF0, 0x10, 0xF0] ++ [0xF0, 0x80, 0xF0, 0x90, 0xF0] ++
  [0xF0, 0x10, 0x20, 0x40, 0x40]

/-- The glyphs of 8..F. PRESUMED (log 3): the spec's default, from general knowledge (R303). -/
def glyphsEightToF : List Byte :=
  [0xF0, 0x90, 0xF0, 0x90, 0xF0] ++ [0xF0, 0x90, 0xF0, 0x10, 0xF0] ++
  [0xF0, 0x90, 0xF0, 0x90, 0x90] ++ [0xE0, 0x90, 0xE0, 0x90, 0xE0] ++
  [0xF0, 0x80, 0x80, 0x80, 0xF0] ++ [0xE0, 0x90, 0x90, 0x90, 0xE0] ++
  [0xF0, 0x80, 0xF0, 0x80, 0xF0] ++ [0xF0, 0x80, 0xF0, 0x80, 0x80]

/-- FONT: 16 glyphs of 5 bytes, glyph d at 5 * d (R303, spec/43_index_memory.md R223). -/
def font : List Byte := glyphZero ++ glyphsOneToSeven ++ glyphsEightToF

/-- FREE VALUE: the answer of the n-th key poll that no answer was lined up for
(spec/44_input_timer.md R242; log 5). Nothing is known of it. -/
opaque keyAnswer : Nat → Option Key

/-- FREE VALUE: the n-th random byte that no byte was lined up for (spec/42_alu.md R196; log 6). -/
opaque randomByte : Nat → Byte

/-- FREE VALUE: the ticks in the n-th gap that no count was lined up for
(spec/60_exceptions.md R276; log 7). -/
opaque gapTicks : Nat → Gap

end Config

end Sys2Proof
end

