-- ==== Sys2Proof/Machine/State.lean ====
section
/-! DEFINITION. What the machine holds (spec/10_state.md, the table at its head; spec/20_memory.md
R70), as plain data; its value after reset (spec/70_reset_and_hazards.md R300); and the reasons a
transition can stop. -/

namespace Sys2Proof.Machine

/-- Memory: the cells that differ from their reset contents, as (address, byte) pairs with strictly
rising addresses (log 4). `Memory.wf` says the form; `Memory.unlisted` says what a cell that is not
listed holds. -/
abbrev Memory := List Host.Cell

/-- The framebuffer, FB[r][c]: 32 rows of 64 pixels, row first (spec/10_state.md R47). -/
abbrev Frame := Vector (Vector Bool 64) 32

/-- A fault's cause (spec/60_exceptions.md R260); `Cause.code` gives its number. -/
inductive Cause where
  | unknownOpcode
  | stackOverflow
  | stackUnderflow
  | fetchOutOfRange
  | loadOutOfRange
  | storeOutOfRange
deriving DecidableEq, Repr

/-- The fault record (spec/10_state.md R50). -/
structure FaultRecord where
  /-- FAULT_VALID: 1 once a step has faulted. -/
  valid : Bool
  /-- FAULT_CAUSE: the code of R260, 0 for none. -/
  cause : BitVec 3
  /-- FAULT_PC: the pc of the instruction that faulted. -/
  pc : Word
  /-- FAULT_OPCODE: the word fetched by the faulting step, 0 when the fetch itself faulted. -/
  opcode : Word
  /-- FAULT_ADDR: the first out-of-range byte address, 0 for the other causes. -/
  addr : BitVec 17
deriving DecidableEq, Repr

/-- The fault record with every field 0 (spec/10_state.md R50, R57). -/
def FaultRecord.clear : FaultRecord :=
  { valid := false, cause := 0, pc := 0, opcode := 0, addr := 0 }

/-- The environment's answers to one kind of question, as plain data: the answers lined up for the
next questions, and how many questions found none lined up. A question takes the first answer of
`upcoming`; when there is none, its answer is the free value of Config at `drawn`. Quantifying over
`upcoming` is quantifying over the environment's behaviour. THE MODEL'S OWN (log 5, 6, 7). -/
structure Feed (α : Type) where
  upcoming : List α
  drawn : Nat
deriving DecidableEq, Repr

/-- Nothing lined up and nothing drawn. DESIGN CHOICE (log 5, 6, 7). -/
def Feed.fresh {α : Type} : Feed α := { upcoming := [], drawn := 0 }

/-- The machine. The last three fields are the model's own (log 5, 6, 7); every other field is the
spec's. -/
structure State where
  /-- V0..VF (spec/10_state.md R30). -/
  v : Vector Byte 16
  /-- I (R35). -/
  i : Word
  /-- pc (R37). -/
  pc : Word
  /-- sp, 0..STACK_CAP - 1 (R41). -/
  sp : Fin 16
  /-- stack[0..STACK_CAP - 1] (R40). -/
  stack : Vector Word 16
  /-- DT (R45). -/
  dt : Byte
  /-- ST (R45). -/
  st : Byte
  /-- FB (R47). -/
  fb : Frame
  /-- The opcode register: the word fetched last (R49, log 10). -/
  opcode : Word
  /-- The fault record (R50). -/
  fault : FaultRecord
  /-- Memory (spec/20_memory.md R70). -/
  mem : Memory
  /-- The answers of KeyPoll() (spec/44_input_timer.md R240). -/
  keys : Feed (Option Key)
  /-- The answers of RandByte() (spec/00_scope.md R11). -/
  rands : Feed Byte
  /-- The ticks in the gap before each step (spec/60_exceptions.md R276). -/
  gaps : Feed Gap
deriving DecidableEq, Repr

/-- The framebuffer with every pixel 0 (spec/40_display.md R130). -/
def Frame.clear : Frame := Vector.replicate 32 (Vector.replicate 64 false)

/-- The state after reset (spec/70_reset_and_hazards.md R300). Memory lists nothing: every cell
holds its reset contents, the font included. -/
def State.reset : State :=
  { v := Vector.replicate 16 0
    i := 0
    pc := BitVec.ofNat 16 Config.progBase
    sp := 0
    stack := Vector.replicate 16 0
    dt := 0
    st := 0
    fb := Frame.clear
    opcode := 0
    fault := FaultRecord.clear
    mem := []
    keys := Feed.fresh
    rands := Feed.fresh
    gaps := Feed.fresh }

/-- Stops with a fault: there are none. Every fault of the spec has an entry (spec/60_exceptions.md
R261), so a faulting step is a next state in which the fault record is written, and a step of the
halted core is a next state too (R262). Log 9 (safe). -/
inductive Fault where
deriving DecidableEq, Repr

/-- Why a transition is refused. -/
inductive Refusal where
  /-- Raised by an arm of `exec` whose instruction has no meaning yet; no arm raises it now. Safe. -/
  | notModelled (mnemonic : String)
  /-- Raised by `hostAct` for a host write that breaks a limit of spec/20_memory.md R85, or a write
  to the fault record: no legal host action. Safe. -/
  | illegalHostWrite
  /-- Raised by `hostAct` for a program load past MEM_SIZE (spec/20_memory.md R84): no legal host
  action. Safe. -/
  | illegalLoad
  /-- Raised by `hostAct`, under `HaltedPort.refusesWrites` only, for a legal write or load while the
  core is halted (spec/60_exceptions.md R278; log 16). Safe. -/
  | coreHalted
deriving DecidableEq, Repr

end Sys2Proof.Machine
end

