-- ==== Sys2Proof/Machine/Ops.lean ====
section
/-! DEFINITION. The named operations over memory, registers, stack, framebuffer and the environment's
answers, and taking a fault. Meanings are written over these. -/

namespace Sys2Proof.Machine

/-! ## Memory -/

/-- What a cell that memory does not list holds: its reset contents, the font at FONT_BASE and 0
elsewhere (spec/20_memory.md R70, spec/70_reset_and_hazards.md R301; log 4). -/
def Memory.unlisted (a : Nat) : Byte :=
  if Config.fontBase ≤ a then (Config.font[a - Config.fontBase]?).getD 0 else 0

/-- mem[a] (spec/20_memory.md R73). Range checks come before it (R76). -/
def Memory.read : Memory → Nat → Byte
  | [], a => Memory.unlisted a
  | (b, x) :: m, a => if a = b then x else Memory.read m a

/-- mem[a] <- x (spec/20_memory.md R73), keeping memory's one form. -/
def Memory.write : Memory → Nat → Byte → Memory
  | [], a, x => if x = Memory.unlisted a then [] else [(a, x)]
  | (b, y) :: m, a, x =>
    if a < b then
      if x = Memory.unlisted a then (b, y) :: m else (a, x) :: (b, y) :: m
    else if a = b then
      if x = Memory.unlisted a then m else (a, x) :: m
    else (b, y) :: Memory.write m a x

/-- The bytes at a, a + 1, ..., a + n - 1. -/
def Memory.readBytes (m : Memory) (a : Nat) : Nat → List Byte
  | 0 => []
  | n + 1 => m.read a :: Memory.readBytes m (a + 1) n

/-- Writes the bytes at a, a + 1, ..., in order. -/
def Memory.writeBytes (m : Memory) (a : Nat) : List Byte → Memory
  | [] => m
  | x :: xs => Memory.writeBytes (m.write a x) (a + 1) xs

/-- Memory's one form from address `lo` on: addresses strictly rising and below MEM_SIZE, and no
cell listed with its reset contents. -/
def Memory.wfFrom (lo : Nat) : Memory → Bool
  | [] => true
  | (a, x) :: m =>
    decide (lo ≤ a) && decide (a < Config.memSize) && decide (x ≠ Memory.unlisted a) &&
      Memory.wfFrom (a + 1) m

/-- Memory's one form (log 4). -/
def Memory.wf (m : Memory) : Bool := Memory.wfFrom 0 m

/-- The range check of an access to a, a + 1, ..., a + n - 1: the lowest address that is not below
MEM_SIZE, if there is one (spec/20_memory.md R74, R76). -/
def firstOutOfRange (a : Nat) : Nat → Option Nat
  | 0 => none
  | n + 1 => if Config.memSize ≤ a then some a else firstOutOfRange (a + 1) n

/-! ## Registers -/

/-- V[x] (spec/00_scope.md R21). -/
def State.getV (s : State) (x : Reg) : Byte := s.v[x]

/-- V[x] <- b (R21). -/
def State.setV (s : State) (x : Reg) (b : Byte) : State := { s with v := s.v.set x b }

/-- VF <- b (R21). -/
def State.setVF (s : State) (b : Byte) : State := s.setV flagReg b

/-- I <- w (R21). -/
def State.setI (s : State) (w : Word) : State := { s with i := w }

/-- V[k], V[k + 1], ... <- the bytes, in order (spec/43_index_memory.md R227). -/
def setRegsFrom (v : Vector Byte 16) (k : Nat) : List Byte → Vector Byte 16
  | [] => v
  | b :: bs => setRegsFrom (v.setIfInBounds k b) (k + 1) bs

/-- The bytes of V0..V[x], in index order (spec/43_index_memory.md R227). -/
def State.regsUpTo (s : State) (x : Reg) : List Byte := s.v.toList.take (x.val + 1)

/-! ## The pc outcome (spec/30_encoding.md R120, R121) -/

/-- How a form leaves pc (R120). -/
inductive PcOutcome where
  /-- pc + 2, the generic increment. -/
  | next
  /-- pc + 4 if the condition holds, else pc + 2. -/
  | skip (c : Bool)
  /-- The target, with no increment. -/
  | jump (t : Word)
  /-- The popped address + 2. -/
  | ret (a : Word)
  /-- pc unchanged. -/
  | wait
deriving DecidableEq, Repr

/-- The pc after an outcome; sums are taken mod 65536 (R120, spec/10_state.md R39). -/
def PcOutcome.target (pc : Word) : PcOutcome → Word
  | .next => pc + 2
  | .skip c => if c then pc + 4 else pc + 2
  | .jump t => t
  | .ret a => a + 2
  | .wait => pc

/-- The end of a form's execution: pc takes its outcome (R120). -/
def State.finish (s : State) (o : PcOutcome) : State := { s with pc := o.target s.pc }

/-! ## The stack (spec/10_state.md R40 to R42) -/

/-- stack[k] (spec/00_scope.md R21). -/
def State.stackAt (s : State) (k : Fin 16) : Word := s.stack[k]

/-- Push: increments sp, then writes stack[sp] (R41, R42). The caller has checked sp. -/
def State.push (s : State) (w : Word) : State :=
  let top : Fin 16 := s.sp + 1
  { s with sp := top, stack := s.stack.set top w }

/-- The sp change of a pop; the entry read is not cleared (R41, R42). The caller has checked sp. -/
def State.drop (s : State) : State := { s with sp := s.sp - 1 }

/-! ## Taking a fault (spec/60_exceptions.md R260, R261)

A fault has no handler, changes no mode and has no return: only reset leaves the halted core (R262),
so there is no return operation to stand beside this one. -/

/-- The cause code (R260). -/
def Cause.code : Cause → BitVec 3
  | .unknownOpcode => 1
  | .stackOverflow => 2
  | .stackUnderflow => 3
  | .fetchOutOfRange => 4
  | .loadOutOfRange => 5
  | .storeOutOfRange => 6

/-- Fault entry: the fault record is written and nothing else changes (R261). `word` is the word the
step fetched, or 0 when the fetch itself faulted; `addr` is the address of R260, or 0. -/
def State.takeFault (s : State) (c : Cause) (word : Word) (addr : Nat) : State :=
  { s with
    fault :=
      { valid := true, cause := c.code, pc := s.pc, opcode := word, addr := BitVec.ofNat 17 addr } }

/-- A fault found after the fetch: the fetched word is in the opcode register (R261, log 12). -/
def State.raise (s : State) (c : Cause) (addr : Nat) : State := s.takeFault c s.opcode addr

/-- A fault of the fetch itself (R261). -/
def State.raiseFetch (s : State) (addr : Nat) : State := s.takeFault .fetchOutOfRange 0 addr

/-- The core is halted: FAULT_VALID = 1 (R262). -/
def State.halted (s : State) : Bool := s.fault.valid

/-! ## The framebuffer (spec/10_state.md R47, spec/40_display.md R131) -/

/-- FB[r][c]. -/
def Frame.pixel (fb : Frame) (r : Fin 32) (c : Fin 64) : Bool := fb[r][c]

/-- FB[r][c] <- b. -/
def Frame.setPixel (fb : Frame) (r : Fin 32) (c : Fin 64) (b : Bool) : Frame :=
  fb.set r (fb[r].set c b)

/-- The row a draw addresses: y mod 32 (R131). -/
def wrapRow (y : Nat) : Fin 32 := Fin.ofNat 32 y

/-- The column a draw addresses: x mod 64 (R131). -/
def wrapCol (x : Nat) : Fin 64 := Fin.ofNat 64 x

/-- The pixel of a sprite row at column offset j: bit 7 - j (R132). -/
def spriteBit (b : Byte) (j : Nat) : Bool := b.getMsbD j

/-- What a draw computes: the framebuffer, and whether a set pixel was turned off (R133). -/
structure Canvas where
  fb : Frame
  hit : Bool
deriving DecidableEq, Repr

/-- One sprite pixel: a set bit flips its pixel, and is a hit if the pixel was 1; a clear bit does
nothing (R133). -/
def Canvas.compose (d : Canvas) (bit : Bool) (r : Fin 32) (c : Fin 64) : Canvas :=
  if bit then
    { fb := d.fb.setPixel r c (!d.fb.pixel r c), hit := d.hit || d.fb.pixel r c }
  else d

/-- The pixels j, j + 1, ..., j + n - 1 of one sprite row at framebuffer row r, the row's first pixel
at column x0 mod 64 (R131 to R133). -/
def Canvas.composeRow (d : Canvas) (r : Fin 32) (x0 : Nat) (b : Byte) (j : Nat) : Nat → Canvas
  | 0 => d
  | n + 1 =>
    Canvas.composeRow (d.compose (spriteBit b j) r (wrapCol (x0 + j))) r x0 b (j + 1) n

/-- The sprite's rows in order, the first at framebuffer row y mod 32 (R131 to R133). -/
def Canvas.composeSprite (d : Canvas) (x0 y : Nat) : List Byte → Canvas
  | [] => d
  | b :: rows =>
    Canvas.composeSprite (d.composeRow (wrapRow y) x0 b 0 8) x0 (y + 1) rows

/-! ## The environment's answers -/

/-- The next answer of a feed, and the feed after it. -/
def Feed.draw {α : Type} (free : Nat → α) (f : Feed α) : α × Feed α :=
  match f.upcoming with
  | a :: rest => (a, { f with upcoming := rest })
  | [] => (free f.drawn, { f with drawn := f.drawn + 1 })

/-- The answer of KeyPoll() at this state (spec/44_input_timer.md R240, R242; log 5). -/
def State.keyAnswer (s : State) : Option Key := (s.keys.draw Config.keyAnswer).1

/-- The state after a KeyPoll(): one answer is used up, and nothing of the spec's changes. -/
def State.keyPolled (s : State) : State := { s with keys := (s.keys.draw Config.keyAnswer).2 }

/-- The answer of RandByte() at this state (spec/42_alu.md R196; log 6). -/
def State.randomByte (s : State) : Byte := (s.rands.draw Config.randomByte).1

/-- The state after a RandByte(): one answer is used up, and nothing of the spec's changes. -/
def State.randomDrawn (s : State) : State := { s with rands := (s.rands.draw Config.randomByte).2 }

end Sys2Proof.Machine
end

