-- ==== Sys2Proof/Machine/Operands.lean ====
section
/-! DEFINITION. The operand forms: the effective address, the address operand, the decimal digits and
the glyph address (spec/30_encoding.md R103, spec/20_memory.md R75). A register operand X or Y is
`State.getV`, and NN is the byte itself. -/

namespace Sys2Proof.Machine

/-- EA = I + k, a natural number with no wrap (spec/20_memory.md R75). -/
def State.effectiveAddr (s : State) (k : Nat) : Nat := s.i.toNat + k

/-- An 8-bit value as a 16-bit one (spec/00_scope.md R20). -/
def zext16 (b : Byte) : Word := b.setWidth 16

/-- A key code as an 8-bit value (spec/44_input_timer.md R250). -/
def byteOfKey (k : Key) : Byte := k.setWidth 8

/-- The target of BNNN: V0 + NNN (spec/41_control.md R160). -/
def State.indexedTarget (s : State) (nnn : Word) : Word := zext16 (s.getV 0) + nnn

/-- The glyph address of FX29: 5 * V[x], with no mask (spec/43_index_memory.md R224). -/
def glyphAddr (b : Byte) : Word := 5 * zext16 b

/-- The hundreds, tens and units digits of a byte (spec/43_index_memory.md R225). -/
def decimalDigits (b : Byte) : List Byte := [b / 100, (b / 10) % 10, b % 10]

/-- Whether the poll's answer is the key code the byte names; `none` equals no byte
(spec/44_input_timer.md R241). -/
def keyMatches (k : Option Key) (b : Byte) : Bool :=
  match k with
  | none => false
  | some c => decide (byteOfKey c = b)

end Sys2Proof.Machine
end

