-- ==== Sys2Proof/Machine/Alu.lean ====
section
/-! DEFINITION. The ALU family: 6XNN, 7XNN, 8XY0 to 8XY7, 8XYE and CXNN (spec/42_alu.md). Where a form
writes V[X] and VF, the two writes stand in the order of R181. -/

namespace Sys2Proof.Machine

/-- 6XNN (R183). -/
def execLdImm (x : Reg) (nn : Byte) (s : State) : Host.Outcome State Fault Refusal :=
  .next ((s.setV x nn).finish .next)

/-- 7XNN: the sum mod 256, no flag (R184). -/
def execAddImm (x : Reg) (nn : Byte) (s : State) : Host.Outcome State Fault Refusal :=
  .next ((s.setV x (s.getV x + nn)).finish .next)

/-- 8XY0 (R186). -/
def execLdReg (x y : Reg) (s : State) : Host.Outcome State Fault Refusal :=
  .next ((s.setV x (s.getV y)).finish .next)

/-- 8XY1 (R187). -/
def execOrReg (x y : Reg) (s : State) : Host.Outcome State Fault Refusal :=
  .next ((s.setV x (s.getV x ||| s.getV y)).finish .next)

/-- 8XY2 (R188). -/
def execAndReg (x y : Reg) (s : State) : Host.Outcome State Fault Refusal :=
  .next ((s.setV x (s.getV x &&& s.getV y)).finish .next)

/-- 8XY3 (R189). -/
def execXorReg (x y : Reg) (s : State) : Host.Outcome State Fault Refusal :=
  .next ((s.setV x (s.getV x ^^^ s.getV y)).finish .next)

/-- 8XY4: the sum mod 256, then VF = carry (R191). -/
def execAddReg (x y : Reg) (s : State) : Host.Outcome State Fault Refusal :=
  let a := s.getV x
  let b := s.getV y
  .next (((s.setV x (a + b)).setVF (carryOfAdd a b)).finish .next)

/-- 8XY5: V[x] - V[y] mod 256, then VF = not borrow (R192). -/
def execSubReg (x y : Reg) (s : State) : Host.Outcome State Fault Refusal :=
  let a := s.getV x
  let b := s.getV y
  .next (((s.setV x (a - b)).setVF (notBorrow a b)).finish .next)

/-- 8XY6: VF = bit 0 of V[x], then V[x] / 2 of the V[x] that write left (R193, R181). -/
def execShr (x _y : Reg) (s : State) : Host.Outcome State Fault Refusal :=
  let s1 := s.setVF (shiftedOutRight (s.getV x))
  .next ((s1.setV x (s1.getV x >>> 1)).finish .next)

/-- 8XY7: V[y] - V[x] mod 256, then VF = not borrow (R194). -/
def execSubnReg (x y : Reg) (s : State) : Host.Outcome State Fault Refusal :=
  let a := s.getV x
  let b := s.getV y
  .next (((s.setV x (b - a)).setVF (notBorrow b a)).finish .next)

/-- 8XYE: VF = bit 7 of V[x], then V[x] * 2 mod 256 of the V[x] that write left (R195, R181). -/
def execShl (x _y : Reg) (s : State) : Host.Outcome State Fault Refusal :=
  let s1 := s.setVF (shiftedOutLeft (s.getV x))
  .next ((s1.setV x (s1.getV x <<< 1)).finish .next)

/-- CXNN: a random byte AND NN; the byte is a free value (R196, log 6). -/
def execRnd (x : Reg) (nn : Byte) (s : State) : Host.Outcome State Fault Refusal :=
  .next ((s.randomDrawn.setV x (s.randomByte &&& nn)).finish .next)

end Sys2Proof.Machine
end

