-- ==== Sys2Proof/Machine/Control.lean ====
section
/-! DEFINITION. The control-transfer family: 00EE, 1NNN, 2NNN, 3XNN, 4XNN, 5XY0, 9XY0 and BNNN
(spec/41_control.md). -/

namespace Sys2Proof.Machine

/-- 00EE: pop the call's address; pc = that address + 2; an empty stack faults (R152). -/
def execRet (s : State) : Host.Outcome State Fault Refusal :=
  if s.sp = 0 then .next (s.raise .stackUnderflow 0)
  else .next (s.drop.finish (.ret (s.stackAt s.sp)))

/-- 1NNN (R153). -/
def execJp (nnn : Word) (s : State) : Host.Outcome State Fault Refusal :=
  .next (s.finish (.jump nnn))

/-- 2NNN: push the address of this 2NNN, then jump; a push at sp = STACK_CAP - 1 faults (R154). -/
def execCall (nnn : Word) (s : State) : Host.Outcome State Fault Refusal :=
  if s.sp.val = Config.stackCap - 1 then .next (s.raise .stackOverflow 0)
  else .next ((s.push s.pc).finish (.jump nnn))

/-- 3XNN (R156). -/
def execSeImm (x : Reg) (nn : Byte) (s : State) : Host.Outcome State Fault Refusal :=
  .next (s.finish (.skip (decide (s.getV x = nn))))

/-- 4XNN (R157). -/
def execSneImm (x : Reg) (nn : Byte) (s : State) : Host.Outcome State Fault Refusal :=
  .next (s.finish (.skip (decide (s.getV x ≠ nn))))

/-- 5XY0 (R158). -/
def execSeReg (x y : Reg) (s : State) : Host.Outcome State Fault Refusal :=
  .next (s.finish (.skip (decide (s.getV x = s.getV y))))

/-- 9XY0 (R159). -/
def execSneReg (x y : Reg) (s : State) : Host.Outcome State Fault Refusal :=
  .next (s.finish (.skip (decide (s.getV x ≠ s.getV y))))

/-- BNNN (R160). -/
def execJpV0 (nnn : Word) (s : State) : Host.Outcome State Fault Refusal :=
  .next (s.finish (.jump (s.indexedTarget nnn)))

end Sys2Proof.Machine
end

