-- ==== Sys2Proof/Machine/Display.lean ====
section
/-! DEFINITION. The display family: 00E0 and DXYN (spec/40_display.md). -/

namespace Sys2Proof.Machine

/-- 00E0: every pixel 0; VF is not written (R130). -/
def execCls (s : State) : Host.Outcome State Fault Refusal :=
  .next (State.finish { s with fb := Frame.clear } .next)

/-- The draw of DXYN once its sprite bytes are known to be in range: coordinates from V[x] and V[y]
before VF is written, then the composition, then VF = hit (R133). -/
def State.drawSprite (s : State) (x y : Reg) (rows : List Byte) : State :=
  let d := Canvas.composeSprite { fb := s.fb, hit := false } (s.getV x).toNat (s.getV y).toNat rows
  State.setVF { s with fb := d.fb } (flagByte d.hit)

/-- DXYN (R133): the range check of every sprite byte comes before any change (spec/20_memory.md
R76). -/
def execDrw (x y : Reg) (n : Nat) (s : State) : Host.Outcome State Fault Refusal :=
  match firstOutOfRange (s.effectiveAddr 0) n with
  | some a => .next (s.raise .loadOutOfRange a)
  | none => .next ((s.drawSprite x y (s.mem.readBytes (s.effectiveAddr 0) n)).finish .next)

end Sys2Proof.Machine
end

