-- ==== Sys2Proof/Machine/IndexMemory.lean ====
section
/-! DEFINITION. The index-register and memory family: ANNN, FX1E, FX29, FX33, FX55 and FX65
(spec/43_index_memory.md). The memory forms check every address before any change (spec/20_memory.md
R76) and leave I unchanged (R221). -/

namespace Sys2Proof.Machine

/-- ANNN (R220). -/
def execLdI (nnn : Word) (s : State) : Host.Outcome State Fault Refusal :=
  .next ((s.setI nnn).finish .next)

/-- FX1E: I + V[x] mod 65536, no flag (R222). -/
def execAddI (x : Reg) (s : State) : Host.Outcome State Fault Refusal :=
  .next ((s.setI (s.i + zext16 (s.getV x))).finish .next)

/-- FX29 (R224). -/
def execLdGlyph (x : Reg) (s : State) : Host.Outcome State Fault Refusal :=
  .next ((s.setI (glyphAddr (s.getV x))).finish .next)

/-- Stores the bytes at I, I + 1, ...: all of them, or a fault at the lowest address out of range
(spec/20_memory.md R75, R76). -/
def State.storeAtI (s : State) (bytes : List Byte) : State :=
  match firstOutOfRange (s.effectiveAddr 0) bytes.length with
  | some a => s.raise .storeOutOfRange a
  | none => State.finish { s with mem := s.mem.writeBytes (s.effectiveAddr 0) bytes } .next

/-- FX33: the three decimal digits of V[x] (R226). -/
def execBcd (x : Reg) (s : State) : Host.Outcome State Fault Refusal :=
  .next (s.storeAtI (decimalDigits (s.getV x)))

/-- FX55: V0..V[x] (R228). -/
def execStoreRegs (x : Reg) (s : State) : Host.Outcome State Fault Refusal :=
  .next (s.storeAtI (s.regsUpTo x))

/-- FX65: V0..V[x] from memory, or a fault at the lowest address out of range (R230). -/
def execLoadRegs (x : Reg) (s : State) : Host.Outcome State Fault Refusal :=
  match firstOutOfRange (s.effectiveAddr 0) (x.val + 1) with
  | some a => .next (s.raise .loadOutOfRange a)
  | none =>
    let bytes := s.mem.readBytes (s.effectiveAddr 0) (x.val + 1)
    .next (State.finish { s with v := setRegsFrom s.v 0 bytes } .next)

end Sys2Proof.Machine
end

