-- ==== Sys2Proof/Machine/InputTimer.lean ====
section
/-! DEFINITION. The input and timer family: EX9E, EXA1, FX07, FX0A, FX15 and FX18
(spec/44_input_timer.md). Each key form polls once (R240); the answer is a free value (log 5). -/

namespace Sys2Proof.Machine

/-- EX9E (R244). -/
def execSkp (x : Reg) (s : State) : Host.Outcome State Fault Refusal :=
  .next (s.keyPolled.finish (.skip (keyMatches s.keyAnswer (s.getV x))))

/-- EXA1 (R245). -/
def execSknp (x : Reg) (s : State) : Host.Outcome State Fault Refusal :=
  .next (s.keyPolled.finish (.skip (!keyMatches s.keyAnswer (s.getV x))))

/-- FX07 (R248). -/
def execLdRegDt (x : Reg) (s : State) : Host.Outcome State Fault Refusal :=
  .next ((s.setV x s.dt).finish .next)

/-- The pc outcome of FX0A: a wait when no key is reported, else the generic increment (R250). -/
def waitOutcome : Option Key → PcOutcome
  | none => .wait
  | some _ => .next

/-- The V registers after FX0A: V[x] = the key, if one is reported (R250). -/
def State.regsWithKey (s : State) (x : Reg) (answer : Option Key) : Vector Byte 16 :=
  match answer with
  | none => s.v
  | some k => s.v.set x (byteOfKey k)

/-- What FX0A does with the poll's answer (R250). -/
def State.takeKey (s : State) (x : Reg) (answer : Option Key) : State :=
  State.finish { s with v := s.regsWithKey x answer } (waitOutcome answer)

/-- FX0A (R250). -/
def execWaitKey (x : Reg) (s : State) : Host.Outcome State Fault Refusal :=
  .next (s.keyPolled.takeKey x s.keyAnswer)

/-- FX15 (R252). -/
def execLdDtReg (x : Reg) (s : State) : Host.Outcome State Fault Refusal :=
  .next (State.finish { s with dt := s.getV x } .next)

/-- FX18 (R254). -/
def execLdStReg (x : Reg) (s : State) : Host.Outcome State Fault Refusal :=
  .next (State.finish { s with st := s.getV x } .next)

end Sys2Proof.Machine
end

