-- ==== Sys2Proof/Machine/Cycle.lean ====
section
/-! DEFINITION. The fetch (spec/20_memory.md R77) and the core's step (spec/30_encoding.md R120). -/

namespace Sys2Proof.Machine

/-- The two bytes at pc as a word, big-endian (spec/20_memory.md R77). -/
def State.fetchWord (s : State) : Word :=
  wordOfBytes (s.mem.read s.pc.toNat) (s.mem.read (s.pc.toNat + 1))

/-- The first of pc and pc + 1 that is out of range, if one is (spec/20_memory.md R77). -/
def State.fetchOutOfRange (s : State) : Option Nat := firstOutOfRange s.pc.toNat 2

/-- The opcode register takes the fetched word (spec/10_state.md R49). -/
def State.latch (s : State) (w : Word) : State := { s with opcode := w }

/-- Decode and execute a fetched word: the one form it selects runs, and a word that selects none
faults (spec/30_encoding.md R104, R107, R120). -/
def State.runWord (s : State) (w : Word) : Host.Outcome State Fault Refusal :=
  match decodeWord w with
  | .error _ => .next ((s.latch w).raise .unknownOpcode 0)
  | .ok i => exec i (s.latch w)

/-- One instruction step of the core (R120): nothing when halted (spec/60_exceptions.md R262), else
fetch, decode and execute, in the fault order of R264. -/
def coreStep (s : State) : Host.Outcome State Fault Refusal :=
  if s.halted then .next s
  else
    match s.fetchOutOfRange with
    | some a => .next (s.raiseFetch a)
    | none => s.runWord s.fetchWord

/-- Whether the core can fetch at pc (spec/20_memory.md R77). -/
def State.canFetch (s : State) : Bool := decide (s.pc.toNat + 1 < Config.memSize)

/-- Places a word where the next step fetches (log 15): the core is not halted, pc is where it was if
the core can fetch there and PROG_BASE otherwise, and the word's two bytes stand at pc. -/
def State.placeWord (s : State) (w : Word) : State :=
  let pc := if s.canFetch then s.pc else BitVec.ofNat 16 Config.progBase
  { s with
    pc := pc
    fault := if s.halted then FaultRecord.clear else s.fault
    mem := s.mem.writeBytes pc.toNat [highByte w, lowByte w] }

end Sys2Proof.Machine
end

