-- ==== Sys2Proof/Machine/Timers.lean ====
section
/-! DEFINITION. The two timers' ticks and the gap before a step (spec/60_exceptions.md R275 to
R278). -/

namespace Sys2Proof.Machine

/-- One tick of a timer's value: down by one, and 0 stays 0 (R275). -/
def tick (t : Byte) : Byte := if t.toNat > 0 then t - 1 else t

/-- The event tick_DT (R275). -/
def State.tickDt (s : State) : State := { s with dt := tick s.dt }

/-- The event tick_ST (R275). -/
def State.tickSt (s : State) : State := { s with st := tick s.st }

/-- n ticks of a timer's value at once. It looks at the value before the number, so that a stopped
timer stays evaluable when the number is a free value. -/
def tickTimes (n : Nat) (t : Byte) : Byte :=
  if t = 0 then 0 else BitVec.ofNat 8 (t.toNat - n)

/-- The ticks of one gap between two steps (R276). -/
def State.passGap (s : State) (g : Gap) : State :=
  { s with dt := tickTimes g.dtTicks s.dt, st := tickTimes g.stTicks s.st }

/-- The ticks in the gap before the next step: a free value (R276; log 7). -/
def State.gapAnswer (s : State) : Gap := (s.gaps.draw Config.gapTicks).1

/-- The state after the gap's number of ticks is drawn. -/
def State.gapDrawn (s : State) : State := { s with gaps := (s.gaps.draw Config.gapTicks).2 }

/-- The gap before a step: its ticks are drawn and take effect (R276). Ticks go on in every state,
the halted one too (R278). -/
def State.openGap (s : State) : State := s.gapDrawn.passGap s.gapAnswer

end Sys2Proof.Machine
end

