-- ==== Sys2Proof/Machine/Step.lean ====
section
/-! DEFINITION. The machine's step: the gap of ticks before a core step, then the core step
(spec/60_exceptions.md R276, spec/30_encoding.md R120; log 7). -/

namespace Sys2Proof.Machine

/-- One step: the ticks that fall in the gap before it, then the core's instruction step. -/
def step (s : State) : Host.Outcome State Fault Refusal := coreStep s.openGap

/-- The state with the instruction word that the opcode table numbers as `w` placed where step
fetches next (log 15). -/
def State.withFetchWord (s : State) (nbits w : Nat) : State := s.placeWord (tableWord nbits w)

end Sys2Proof.Machine
end

