-- ==== Sys2Proof/Machine/HostPort.lean ====
section
/-! DEFINITION. The host's actions between steps: reset, the program load, and writes to the state
(spec/00_scope.md R8, R12, R13; spec/20_memory.md R84, R85; spec/70_reset_and_hazards.md R302); and
the display's view of the framebuffer (R16). The host reads by looking at the fields of State. -/

namespace Sys2Proof.Machine

/-- A host action. Values and indexes are natural numbers, so that an action beyond a field's width
can be asked for and is refused (R85). -/
inductive HostAction where
  /-- Assert reset (R8). -/
  | reset
  /-- Load a program at PROG_BASE (R84). -/
  | load (program : List Byte)
  /-- V[x] <- b. -/
  | writeV (x b : Nat)
  /-- I <- w. -/
  | writeI (w : Nat)
  /-- pc <- w. -/
  | writePc (w : Nat)
  /-- sp <- k. -/
  | writeSp (k : Nat)
  /-- stack[k] <- w. -/
  | writeStack (k w : Nat)
  /-- DT <- b. -/
  | writeDt (b : Nat)
  /-- ST <- b. -/
  | writeSt (b : Nat)
  /-- FB[r][c] <- b. -/
  | writePixel (r c b : Nat)
  /-- mem[a] <- b. -/
  | writeMem (a b : Nat)
  /-- Write the fault record: never legal (R85). -/
  | writeFault (f : FaultRecord)
deriving DecidableEq, Repr

/-- Reset: every piece of the spec's state takes its reset value, whatever it was (R300, R302). The
environment's answers still to come are not the machine's, and stay (log 8). -/
def State.resetCore (s : State) : State :=
  { State.reset with keys := s.keys, rands := s.rands, gaps := s.gaps }

/-- Whether the host port takes a legal write or load now: always in the running core, and in the halted
core as the port says (spec/00_scope.md R12, spec/60_exceptions.md R278; log 16). -/
def State.portOpen (s : State) (port : HaltedPort) : Bool :=
  !s.halted || decide (port = .takesWrites)

/-- A change by the host that takes s to t: refused when it is not legal (R84, R85), and refused when
the port is not open. -/
def State.hostChange (s : State) (port : HaltedPort) (legal : Bool) (illegal : Refusal) (t : State) :
    Host.Outcome State Fault Refusal :=
  if legal then
    if s.portOpen port then .next t else .refused .coreHalted
  else .refused illegal

/-- A host write that takes s to t (R85). -/
def State.hostWrite (s : State) (port : HaltedPort) (legal : Bool) (t : State) :
    Host.Outcome State Fault Refusal :=
  s.hostChange port legal .illegalHostWrite t

/-- The program load: the bytes at PROG_BASE, PROG_BASE + 1, ..., refused when they do not fit
(R84). -/
def State.loadProgram (s : State) (port : HaltedPort) (program : List Byte) :
    Host.Outcome State Fault Refusal :=
  s.hostChange port (decide (Config.progBase + program.length ≤ Config.memSize)) .illegalLoad
    { s with mem := s.mem.writeBytes Config.progBase program }

/-- One host action between steps (R12, R84, R85). Reset acts in every state (R302). -/
def hostAct (port : HaltedPort) (a : HostAction) (s : State) : Host.Outcome State Fault Refusal :=
  match a with
  | .reset => .next s.resetCore
  | .load program => s.loadProgram port program
  | .writeV x b =>
    s.hostWrite port (decide (x < 16 ∧ b < 256)) (s.setV (Fin.ofNat 16 x) (BitVec.ofNat 8 b))
  | .writeI w => s.hostWrite port (decide (w < 65536)) (s.setI (BitVec.ofNat 16 w))
  | .writePc w => s.hostWrite port (decide (w < 65536)) { s with pc := BitVec.ofNat 16 w }
  | .writeSp k => s.hostWrite port (decide (k < Config.stackCap)) { s with sp := Fin.ofNat 16 k }
  | .writeStack k w =>
    s.hostWrite port (decide (k < Config.stackCap ∧ w < 65536))
      { s with stack := s.stack.set (Fin.ofNat 16 k).val (BitVec.ofNat 16 w) }
  | .writeDt b => s.hostWrite port (decide (b < 256)) { s with dt := BitVec.ofNat 8 b }
  | .writeSt b => s.hostWrite port (decide (b < 256)) { s with st := BitVec.ofNat 8 b }
  | .writePixel r c b =>
    s.hostWrite port (decide (r < Config.fbRows ∧ c < Config.fbCols ∧ b < 2))
      { s with fb := s.fb.setPixel (Fin.ofNat 32 r) (Fin.ofNat 64 c) (decide (b = 1)) }
  | .writeMem a b =>
    s.hostWrite port (decide (a < Config.memSize ∧ b < 256))
      { s with mem := s.mem.write a (BitVec.ofNat 8 b) }
  | .writeFault _ => .refused .illegalHostWrite

/-- The display's view: the framebuffer as a linear array of 2048 pixels, pixel (r, c) at
r * 64 + c (R16, spec/10_state.md R47). -/
def State.display (s : State) : Vector Bool (32 * 64) := s.fb.flatten

end Sys2Proof.Machine
end

