-- ==== Sys2Proof/Machine/Run.lean ====
section
/-! DEFINITION. The machine under all its agents: core steps, ticks and host actions in any order
(spec/00_scope.md R18, spec/20_memory.md R83, spec/70_reset_and_hazards.md R305). -/

namespace Sys2Proof.Machine

/-- One event of the block's interface (R8 to R13, R18). -/
inductive Event where
  /-- The core's instruction step (R9). -/
  | coreStep
  /-- A tick of the delay timer (R10). -/
  | tickDt
  /-- A tick of the sound timer (R10). -/
  | tickSt
  /-- A host action (R12). -/
  | host (a : HostAction)
deriving DecidableEq, Repr

/-- What one event does. The port matters to the host's writes and loads in the halted core only
(log 16). -/
def react (port : HaltedPort) (e : Event) (s : State) : Host.Outcome State Fault Refusal :=
  match e with
  | .coreStep => Sys2Proof.Machine.coreStep s
  | .tickDt => .next s.tickDt
  | .tickSt => .next s.tickSt
  | .host a => hostAct port a s

/-- A run: events in order, stopped by the first one refused. -/
def runEvents (port : HaltedPort) : List Event → State → Host.Outcome State Fault Refusal
  | [], s => .next s
  | e :: es, s =>
    match react port e s with
    | .next t => runEvents port es t
    | .fault f => .fault f
    | .refused r => .refused r

end Sys2Proof.Machine
end

