-- ==== Sys2Proof/Safety.lean ====
section
/-! DEFINITION. What claims are stated in: the machine's invariant, and which parts of the state a
transition leaves alone. -/

namespace Sys2Proof.Machine

/-- Whether the form a word selects is one that raises the cause with this code, by the table of
spec/60_exceptions.md R260 (the fetch's cause, 4, has no word). -/
def causeFitsWord (code : BitVec 3) (w : Word) : Bool :=
  match decodeWord w with
  | .error _ => decide (code = Cause.unknownOpcode.code)
  | .ok (.call _) => decide (code = Cause.stackOverflow.code)
  | .ok .ret => decide (code = Cause.stackUnderflow.code)
  | .ok (.drw _ _ _) | .ok (.loadRegs _) => decide (code = Cause.loadOutOfRange.code)
  | .ok (.bcd _) | .ok (.storeRegs _) => decide (code = Cause.storeOutOfRange.code)
  | .ok _ => false

/-- Whether the recorded address fits the cause: out of range for a load or store, 0 for the others
but the fetch (R260). -/
def addrFitsCause (code : BitVec 3) (addr : Nat) : Bool :=
  if code = Cause.loadOutOfRange.code ∨ code = Cause.storeOutOfRange.code then
    decide (Config.memSize ≤ addr)
  else decide (addr = 0)

/-- The fault record makes sense: all 0 before a fault (spec/10_state.md R50), and after one a cause,
a word and an address that R260 allows together. -/
def FaultRecord.wf (f : FaultRecord) : Bool :=
  if f.valid then
    if f.cause = Cause.fetchOutOfRange.code then
      decide (f.opcode = 0) && decide (firstOutOfRange f.pc.toNat 2 = some f.addr.toNat)
    else causeFitsWord f.cause f.opcode && addrFitsCause f.cause f.addr.toNat
  else decide (f = FaultRecord.clear)

/-- The machine's invariant: memory is in its one form and the fault record makes sense. (That sp
stays in 0..15 is in its type.) -/
def State.Inv (s : State) : Prop := s.mem.wf = true ∧ s.fault.wf = true

/-- The parts of the state. -/
inductive Part where
  | v | i | pc | sp | stack | dt | st | fb | opcode | fault | mem | keys | rands | gaps
deriving DecidableEq, Repr

/-- A part of the state is unchanged from s to t; memory is compared by what it reads as. -/
def Part.Same : Part → State → State → Prop
  | .v, s, t => ∀ x : Reg, t.getV x = s.getV x
  | .i, s, t => t.i = s.i
  | .pc, s, t => t.pc = s.pc
  | .sp, s, t => t.sp = s.sp
  | .stack, s, t => ∀ k : Fin 16, t.stackAt k = s.stackAt k
  | .dt, s, t => t.dt = s.dt
  | .st, s, t => t.st = s.st
  | .fb, s, t => ∀ r c, t.fb.pixel r c = s.fb.pixel r c
  | .opcode, s, t => t.opcode = s.opcode
  | .fault, s, t => t.fault = s.fault
  | .mem, s, t => ∀ a : Nat, t.mem.read a = s.mem.read a
  | .keys, s, t => t.keys = s.keys
  | .rands, s, t => t.rands = s.rands
  | .gaps, s, t => t.gaps = s.gaps

/-- Every part of the state but the listed ones is unchanged from s to t. -/
def SameExcept (changed : List Part) (s t : State) : Prop := ∀ p : Part, p ∉ changed → p.Same s t

/-- Every V register but the listed ones is unchanged from s to t. -/
def RegsSameExcept (changed : List Reg) (s t : State) : Prop :=
  ∀ x : Reg, x ∉ changed → t.getV x = s.getV x

/-- Every byte of memory outside the n bytes at a reads the same in s and t. -/
def MemSameOutside (a n : Nat) (s t : State) : Prop :=
  ∀ b : Nat, b < a ∨ a + n ≤ b → t.mem.read b = s.mem.read b

/-- A set bit of the n-row sprite at I, drawn at (V[x], V[y]), falls on pixel (r, c): bit 7 - j of
row k falls at row (V[y] + k) mod 32 and column (V[x] + j) mod 64 (spec/40_display.md R131,
R132). -/
def SpriteFallsOn (s : State) (x y : Reg) (n : Nat) (r : Fin 32) (c : Fin 64) : Prop :=
  ∃ k j : Nat, k < n ∧ j < 8 ∧ r.val = ((s.getV y).toNat + k) % 32 ∧
    c.val = ((s.getV x).toNat + j) % 64 ∧ (s.mem.read (s.i.toNat + k)).getLsbD (7 - j) = true

/-- The parts of the state that a form may change besides pc, when it does not fault
(spec/10_state.md R32, R35, R40, R45, R48; spec/20_memory.md R81; the key and random feeds for the
forms that draw). -/
def mayWrite : Instr → List Part
  | .cls => [.fb]
  | .drw _ _ _ => [.fb, .v]
  | .ret => [.sp]
  | .call _ => [.sp, .stack]
  | .jp _ | .jpV0 _ | .seImm _ _ | .sneImm _ _ | .seReg _ _ | .sneReg _ _ => []
  | .ldImm _ _ | .addImm _ _ | .ldReg _ _ | .orReg _ _ | .andReg _ _ | .xorReg _ _ => [.v]
  | .addReg _ _ | .subReg _ _ | .shr _ _ | .subnReg _ _ | .shl _ _ => [.v]
  | .rnd _ _ => [.v, .rands]
  | .ldI _ | .addI _ | .ldGlyph _ => [.i]
  | .bcd _ | .storeRegs _ => [.mem]
  | .loadRegs _ | .ldRegDt _ => [.v]
  | .skp _ | .sknp _ => [.keys]
  | .waitKey _ => [.v, .keys]
  | .ldDtReg _ => [.dt]
  | .ldStReg _ => [.st]

/-- Whether a form may write VF: the six forms that write it as their flag, a form that writes V[X]
with X = 0xF, and FX65 with X = 0xF (spec/10_state.md R32). -/
def mayWriteVF : Instr → Bool
  | .addReg _ _ | .subReg _ _ | .shr _ _ | .subnReg _ _ | .shl _ _ | .drw _ _ _ => true
  | .ldImm x _ | .addImm x _ | .rnd x _ => decide (x = flagReg)
  | .ldReg x _ | .orReg x _ | .andReg x _ | .xorReg x _ => decide (x = flagReg)
  | .ldRegDt x | .waitKey x | .loadRegs x => decide (x = flagReg)
  | .cls | .ret | .jp _ | .call _ | .jpV0 _ => false
  | .seImm _ _ | .sneImm _ _ | .seReg _ _ | .sneReg _ _ => false
  | .ldI _ | .addI _ | .ldGlyph _ | .bcd _ | .storeRegs _ => false
  | .skp _ | .sknp _ | .ldDtReg _ | .ldStReg _ => false

/-- Whether a form has a check of its own that can fault (spec/60_exceptions.md R260, R264). -/
def mayFault : Instr → Bool
  | .ret | .call _ | .drw _ _ _ | .bcd _ | .storeRegs _ | .loadRegs _ => true
  | .cls | .jp _ | .jpV0 _ | .seImm _ _ | .sneImm _ _ | .seReg _ _ | .sneReg _ _ => false
  | .ldImm _ _ | .addImm _ _ | .ldReg _ _ | .orReg _ _ | .andReg _ _ | .xorReg _ _ => false
  | .addReg _ _ | .subReg _ _ | .shr _ _ | .subnReg _ _ | .shl _ _ | .rnd _ _ => false
  | .ldI _ | .addI _ | .ldGlyph _ => false
  | .skp _ | .sknp _ | .ldRegDt _ | .waitKey _ | .ldDtReg _ | .ldStReg _ => false

/-- The instruction runs to a next state of which `Post` holds. -/
def Completes (i : Instr) (s : State) (Post : State → Prop) : Prop :=
  ∃ t, exec i s = .next t ∧ Post t

/-- A legal host action gives a next state of which `Post` holds, in the running core and, under
R12's reading, in the halted one; under R278's reading the halted core refuses it (log 16). -/
def HostChanges (a : HostAction) (s : State) (Post : State → Prop) : Prop :=
  ∀ port : HaltedPort,
    (s.halted = false ∨ port = .takesWrites → ∃ t, hostAct port a s = .next t ∧ Post t) ∧
    (s.halted = true → port = .refusesWrites → hostAct port a s = .refused .coreHalted)

/-- A host action is refused with this reason, in every state the halted port may leave it in. -/
def HostRefuses (a : HostAction) (s : State) (r : Refusal) : Prop :=
  ∀ port : HaltedPort, hostAct port a s = .refused r

/-- t is s after fault entry with this cause, word and address: the record holds them and pc, and
every other part is unchanged (R261). -/
def FaultTaken (s t : State) (c : Cause) (word : Word) (addr : Nat) : Prop :=
  t.fault.valid = true ∧ t.fault.cause = c.code ∧ t.fault.pc = s.pc ∧ t.fault.opcode = word ∧
    t.fault.addr.toNat = addr ∧ SameExcept [.fault] s t

end Sys2Proof.Machine
end

