-- ==== Sys2Proof/Certificates/Slice0/Obligations.lean ====
section
/-! DEFINITION. The statements for the provers. Each docstring names the rules of spec/ it
formalises. A statement about exec is about every state; the step statements tie exec to a run. No
statement rests on a value of the model's own fields keys, rands and gaps. -/

open Sys2Proof Sys2Proof.Machine

/-! ## Reset -/

/-- Reset leaves every V register, I, sp, the stack, the timers, the framebuffer, the opcode register
and the fault record 0, pc = 0x200, memory the font at 0x000..0x04F and 0 above (R300). -/
def Obligations.ResetValues : Prop :=
  (∀ x, State.reset.getV x = 0) ∧ State.reset.i = 0 ∧ State.reset.pc = 0x200 ∧
  State.reset.sp = 0 ∧ (∀ k, State.reset.stackAt k = 0) ∧
  State.reset.dt = 0 ∧ State.reset.st = 0 ∧ (∀ r c, State.reset.fb.pixel r c = false) ∧
  State.reset.opcode = 0 ∧
  State.reset.fault = { valid := false, cause := 0, pc := 0, opcode := 0, addr := 0 } ∧
  Config.font.length = 80 ∧
  (∀ a : Nat, a < 80 → Config.font[a]? = some (State.reset.mem.read a)) ∧
  (∀ a : Nat, 80 ≤ a → a < 0x1000 → State.reset.mem.read a = 0)

/-- The 80 font bytes in memory after reset: the source's glyph 0, and the spec's default, from
general knowledge, for the glyphs 1..F (R303). The last 15 glyphs are log 3's choice. -/
def Obligations.ResetFontBytes : Prop :=
  State.reset.mem.readBytes 0 80 =
    [0xF0, 0x90, 0x90, 0x90, 0xF0, 0x20, 0x60, 0x20, 0x20, 0x70,
     0xF0, 0x10, 0xF0, 0x80, 0xF0, 0xF0, 0x10, 0xF0, 0x10, 0xF0] ++
    [0x90, 0x90, 0xF0, 0x10, 0x10, 0xF0, 0x80, 0xF0, 0x10, 0xF0,
     0xF0, 0x80, 0xF0, 0x90, 0xF0, 0xF0, 0x10, 0x20, 0x40, 0x40] ++
    [0xF0, 0x90, 0xF0, 0x90, 0xF0, 0xF0, 0x90, 0xF0, 0x10, 0xF0,
     0xF0, 0x90, 0xF0, 0x90, 0x90, 0xE0, 0x90, 0xE0, 0x90, 0xE0] ++
    [0xF0, 0x80, 0x80, 0x80, 0xF0, 0xE0, 0x90, 0x90, 0x90, 0xE0,
     0xF0, 0x80, 0xF0, 0x80, 0xF0, 0xF0, 0x80, 0xF0, 0x80, 0x80]

/-- The host's reset gives the spec's whole reset state whatever came before, and a second reset
gives the same state as one (R302). The feeds of the environment's answers stay as they were, which is
the model's choice (log 8). -/
def Obligations.ResetIdempotent : Prop :=
  ∀ (port : HaltedPort) (s : State), ∃ t, hostAct port .reset s = .next t ∧
    SameExcept [.keys, .rands, .gaps] State.reset t ∧
    t.keys = s.keys ∧ t.rands = s.rands ∧ t.gaps = s.gaps ∧
    hostAct port .reset t = .next t

/-- The reset state meets the invariant that every step keeps. -/
def Obligations.ResetMeetsInvariant : Prop := State.reset.Inv

/-- From reset with no program loaded, the first step faults on the word 0x0000 at 0x200: cause 1,
and nothing else of the spec's state changes (R307, R107; vector V-ENC-1). -/
def Obligations.UnloadedResetFaults : Prop :=
  ∃ t, step State.reset = .next t ∧
    t.fault = { valid := true, cause := 1, pc := 0x200, opcode := 0, addr := 0 } ∧
    SameExcept [.fault, .gaps] State.reset t

/-! ## Encoding -/

/-- Words of every layout, written from R102 and R106, decode to the instructions they stand for. -/
def Obligations.WordsDecodeAsWritten : Prop :=
  decodeWord 0x00E0 = .ok .cls ∧ decodeWord 0x00EE = .ok .ret ∧
  decodeWord 0x1411 = .ok (.jp 0x411) ∧ decodeWord 0xA09C = .ok (.ldI 0x09C) ∧
  decodeWord 0x3855 = .ok (.seImm 8 0x55) ∧ decodeWord 0x8974 = .ok (.addReg 9 7) ∧
  decodeWord 0x8AB6 = .ok (.shr 0xA 0xB) ∧ decodeWord 0xD115 = .ok (.drw 1 1 5) ∧
  decodeWord 0xE3A1 = .ok (.sknp 3) ∧ decodeWord 0xF433 = .ok (.bcd 4) ∧
  decodeWord 0x0123 = .error (.unknownOpcode 0x0123) ∧
  decodeWord 0x5121 = .error (.unknownOpcode 0x5121)

/-- Decoding the word of a well-formed instruction gives it back, operands and all (R101 to R106). -/
def Obligations.DecodeAfterEncode : Prop :=
  ∀ i : Instr, i.WellFormed → decodeWord (encode i) = .ok i

/-- A decoded word is the word of the instruction it decodes to, which is well formed: decoding loses
no bit (R104, R106). -/
def Obligations.EncodeAfterDecode : Prop :=
  ∀ (w : Word) (i : Instr), decodeWord w = .ok i → i.WellFormed ∧ encode i = w

/-- A word selects a form exactly when it has the form's fixed bits, and it selects one form only
(R104): the decoded instruction's mask and match fit the word, and a form whose mask and match fit
the word is the decoded one's. -/
def Obligations.DecodeByMaskAndMatch : Prop :=
  (∀ (w : Word) (i : Instr), decodeWord w = .ok i → w &&& formMask i = formMatch i) ∧
  (∀ (w : Word) (i : Instr), w &&& formMask i = formMatch i →
    ∃ j, decodeWord w = .ok j ∧ formMask j = formMask i ∧ formMatch j = formMatch i)

/-- Exactly the words of R105's map that it names unknown have no instruction, and the decoder's
rejection names the word. -/
def Obligations.UnknownWords : Prop :=
  ∀ w : Word, decodeWord w = .error (.unknownOpcode w) ↔
    (w.toNat / 4096 = 0x0 ∧ w.toNat ≠ 0x00E0 ∧ w.toNat ≠ 0x00EE) ∨
    (w.toNat / 4096 = 0x5 ∧ w.toNat % 16 ≠ 0) ∨
    (w.toNat / 4096 = 0x8 ∧ w.toNat % 16 ∉ [0, 1, 2, 3, 4, 5, 6, 7, 0xE]) ∨
    (w.toNat / 4096 = 0x9 ∧ w.toNat % 16 ≠ 0) ∨
    (w.toNat / 4096 = 0xE ∧ w.toNat % 256 ∉ [0x9E, 0xA1]) ∨
    (w.toNat / 4096 = 0xF ∧
      w.toNat % 256 ∉ [0x07, 0x0A, 0x15, 0x18, 0x1E, 0x29, 0x33, 0x55, 0x65])

/-! ## The step -/

/-- When the core is not halted and the two bytes at pc, high byte first, decode to i, step is exec of
i at the state with the word latched in the opcode register, after the gap's ticks, which can lower
DT and ST and change nothing else of the spec's (R120, R77, R276). -/
def Obligations.StepRunsDecodedInstruction : Prop :=
  ∀ (s : State) (w : Word) (i : Instr), s.halted = false → s.pc.toNat + 1 < Config.memSize →
    w.toNat = (s.mem.read s.pc.toNat).toNat * 256 + (s.mem.read (s.pc.toNat + 1)).toNat →
    decodeWord w = .ok i →
    ∃ u, step s = exec i u ∧ u.opcode = w ∧ SameExcept [.opcode, .dt, .st, .gaps] s u ∧
      ∃ g : Gap, u.dt.toNat = s.dt.toNat - g.dtTicks ∧ u.st.toNat = s.st.toNat - g.stTicks

/-- A step's gap is a run of that many tick events before the core step (R276, log 7). -/
def Obligations.GapIsTickEvents : Prop :=
  ∀ (port : HaltedPort) (s : State), step s =
    runEvents port (List.replicate s.gapAnswer.dtTicks .tickDt ++
      List.replicate s.gapAnswer.stTicks .tickSt ++ [.coreStep]) s.gapDrawn

/-- A word that selects no form faults with UnknownOpcode: the record is written, the opcode register
holds the word, and nothing else changes (R107, R261). -/
def Obligations.UnknownOpcodeFaults : Prop :=
  ∀ s : State, s.halted = false → s.pc.toNat + 1 < Config.memSize →
    decodeWord s.fetchWord = .error (.unknownOpcode s.fetchWord) →
    ∃ t, coreStep s = .next t ∧
      t.fault = { valid := true, cause := 1, pc := s.pc, opcode := s.fetchWord, addr := 0 } ∧
      t.opcode = s.fetchWord ∧ SameExcept [.fault, .opcode] s t

/-- A fetch that is not wholly in memory faults with FetchOutOfRange at the first of pc and pc + 1
out of range, FAULT_OPCODE = 0, and changes nothing else, the opcode register included (R77, R261). -/
def Obligations.FetchOutOfRangeFaults : Prop :=
  ∀ s : State, s.halted = false → Config.memSize ≤ s.pc.toNat + 1 →
    ∃ t, coreStep s = .next t ∧
      FaultTaken s t .fetchOutOfRange 0
        (if Config.memSize ≤ s.pc.toNat then s.pc.toNat else s.pc.toNat + 1)

/-- A step of the halted core does nothing; in the machine's step, only the gap's ticks happen
(R262, R278). -/
def Obligations.HaltedStepDoesNothing : Prop :=
  ∀ s : State, s.halted = true → coreStep s = .next s ∧
    ∃ t, step s = .next t ∧ SameExcept [.dt, .st, .gaps] s t ∧
      t.dt.toNat ≤ s.dt.toNat ∧ t.st.toNat ≤ s.st.toNat

/-- Faults are precise (R261): a core step that ends in a fault leaves every part of the state but the
fault record and the opcode register; FAULT_PC is pc; and either the fetch faulted, with the opcode
register kept and FAULT_OPCODE 0, or both hold the fetched word. -/
def Obligations.FaultsArePrecise : Prop :=
  ∀ s t : State, s.halted = false → coreStep s = .next t → t.halted = true →
    SameExcept [.fault, .opcode] s t ∧ t.fault.pc = s.pc ∧
      ((t.fault.cause = 4 ∧ t.opcode = s.opcode ∧ t.fault.opcode = 0) ∨
        (t.fault.cause ≠ 4 ∧ t.opcode = s.fetchWord ∧ t.fault.opcode = s.fetchWord))

/-- Every step answers a next state: each fault of the spec is one (R261, R262; log 9). -/
def Obligations.StepAlwaysAnswersNext : Prop := ∀ s : State, ∃ t, step s = .next t

/-- Every step keeps the invariant: memory stays in its one form (addresses rising, all below
MEM_SIZE, no cell listed with its reset contents; log 4), and the fault record stays all 0 or holds a
cause, a word and an address that R260 allows together. -/
def Obligations.StepKeepsInvariant : Prop :=
  ∀ s t : State, s.Inv → step s = .next t → t.Inv

/-- Every event that is not refused keeps the invariant: core steps, ticks, reset, load and host
writes (R18, R85). -/
def Obligations.EventsKeepInvariant : Prop :=
  ∀ (port : HaltedPort) (e : Event) (s t : State), s.Inv → react port e s = .next t → t.Inv

/-- In the halted core, a step does nothing, a tick takes its own timer and nothing else, and no event
but reset changes the fault record, so that the core stays halted (R262, R263). Under R278's reading no
other event than a step or a tick has a next state at all; under R12's, host writes and loads do
(log 16). -/
def Obligations.OnlyResetLeavesHalt : Prop :=
  ∀ s : State, s.halted = true → coreStep s = .next s ∧
    ∀ (port : HaltedPort) (e : Event) (t : State), e ≠ .host .reset → react port e s = .next t →
      t.fault = s.fault ∧
        ((e = .coreStep ∧ t = s) ∨ (e = .tickDt ∧ SameExcept [.dt] s t) ∨
          (e = .tickSt ∧ SameExcept [.st] s t) ∨ (port = .takesWrites ∧ ∃ a, e = .host a))

/-- Two states that differ in ST alone step alike but for ST: no instruction reads ST (R45, R254). -/
def Obligations.NoInstructionReadsSt : Prop :=
  ∀ (s : State) (b : Byte), ∃ t u, coreStep s = .next t ∧ coreStep { s with st := b } = .next u ∧
    SameExcept [.st] t u

/-- Two states that differ in the opcode register alone step alike but for that register: no
instruction reads the value another step left in it (R49). -/
def Obligations.NoInstructionReadsStaleOpcode : Prop :=
  ∀ (s : State) (w : Word), ∃ t u, coreStep s = .next t ∧
    coreStep { s with opcode := w } = .next u ∧ SameExcept [.opcode] t u

/-- What each form may change (R35, R40, R45, R48, R51, R81): either it faults, which only a form with a
check of its own can do, and then nothing but the fault record changes; or the fault record is
unchanged, and besides pc only the parts that mayWrite lists may change. -/
def Obligations.InstructionFrames : Prop :=
  ∀ (i : Instr) (s t : State), exec i s = .next t →
    (mayFault i = true ∧ t.halted = true ∧ SameExcept [.fault] s t) ∨
      (t.fault = s.fault ∧ SameExcept (.pc :: mayWrite i) s t)

/-- Exactly the forms of R32 may write VF: under any other, VF is unchanged. -/
def Obligations.OnlyFlagFormsWriteVF : Prop :=
  ∀ (i : Instr) (s t : State), exec i s = .next t → mayWriteVF i = false →
    t.getV 0xF = s.getV 0xF

/-! ## Memory -/

/-- Memory's one form is one: two memories in it that read the same are equal (log 4). -/
def Obligations.MemoryFormIsUnique : Prop :=
  ∀ m n : Memory, m.wf = true → n.wf = true →
    (∀ a : Nat, m.read a = n.read a) → m = n

/-- A host write of one byte sets that cell and changes nothing else; one out of range, or of a value
wider than a byte, is refused (R73, R85). In the halted core a legal one takes effect under R12's reading
and is refused under R278's (log 16). -/
def Obligations.HostWriteSetsOneCell : Prop :=
  ∀ (s : State) (a b : Nat), s.mem.wf = true →
    (a < Config.memSize → b < 256 → HostChanges (.writeMem a b) s fun t =>
      (t.mem.read a).toNat = b ∧ MemSameOutside a 1 s t ∧ SameExcept [.mem] s t) ∧
    (Config.memSize ≤ a ∨ 256 ≤ b → HostRefuses (.writeMem a b) s .illegalHostWrite)

/-- A load puts the program's bytes at 0x200, 0x201, ... and changes nothing else; a load past MEM_SIZE
is refused (R84). That a load may come in any gap, and not only before the first step, is the model's
choice (log 17). In the halted core it takes effect under R12's reading and is refused under R278's
(log 16). -/
def Obligations.LoadPlacesProgram : Prop :=
  ∀ (s : State) (program : List Byte), s.mem.wf = true →
    (0x200 + program.length ≤ Config.memSize → HostChanges (.load program) s fun t =>
      (∀ k : Nat, k < program.length → program[k]? = some (t.mem.read (0x200 + k))) ∧
      MemSameOutside 0x200 program.length s t ∧ SameExcept [.mem] s t) ∧
    (Config.memSize < 0x200 + program.length →
      HostRefuses (.load program) s .illegalLoad)

/-- A host write to a register, a stack entry or a pixel sets it when the value fits, and is refused when
it does not; a write to the fault record is always refused (R12, R85). That a write at an index that
names no field is refused is the model's choice (log 13). In the halted core a legal write takes effect
under R12's reading and is refused under R278's (log 16). -/
def Obligations.HostWritesKeepLimits : Prop :=
  ∀ (s : State) (k w : Nat) (x : Reg) (e : Fin 16) (r : Fin 32) (c : Fin 64) (f : FaultRecord),
    (if w < 256 then
      (HostChanges (.writeV x w) s fun t =>
        (t.getV x).toNat = w ∧ RegsSameExcept [x] s t ∧ SameExcept [.v] s t) ∧
      (HostChanges (.writeDt w) s fun t => t.dt.toNat = w ∧ SameExcept [.dt] s t) ∧
      (HostChanges (.writeSt w) s fun t => t.st.toNat = w ∧ SameExcept [.st] s t)
    else
      HostRefuses (.writeV x w) s .illegalHostWrite ∧
      HostRefuses (.writeDt w) s .illegalHostWrite ∧
      HostRefuses (.writeSt w) s .illegalHostWrite) ∧
    (if w < 65536 then
      (HostChanges (.writeI w) s fun t => t.i.toNat = w ∧ SameExcept [.i] s t) ∧
      (HostChanges (.writePc w) s fun t => t.pc.toNat = w ∧ SameExcept [.pc] s t) ∧
      (HostChanges (.writeStack e w) s fun t =>
        (t.stackAt e).toNat = w ∧ (∀ j, j ≠ e → t.stackAt j = s.stackAt j) ∧
        SameExcept [.stack] s t)
    else
      HostRefuses (.writeI w) s .illegalHostWrite ∧
      HostRefuses (.writePc w) s .illegalHostWrite ∧
      HostRefuses (.writeStack e w) s .illegalHostWrite) ∧
    (if k ≤ 15 then HostChanges (.writeSp k) s fun t => t.sp.val = k ∧ SameExcept [.sp] s t
    else HostRefuses (.writeSp k) s .illegalHostWrite) ∧
    (if w ≤ 1 then
      HostChanges (.writePixel r c w) s fun t =>
        t.fb.pixel r c = decide (w = 1) ∧
        (∀ r' c', (r', c') ≠ (r, c) → t.fb.pixel r' c' = s.fb.pixel r' c') ∧
        SameExcept [.fb] s t
    else HostRefuses (.writePixel r c w) s .illegalHostWrite) ∧
    (∀ j : Nat, 16 ≤ j → HostRefuses (.writeV j w) s .illegalHostWrite ∧
      HostRefuses (.writeStack j w) s .illegalHostWrite) ∧
    (∀ a b : Nat, 32 ≤ a ∨ 64 ≤ b →
      HostRefuses (.writePixel a b w) s .illegalHostWrite) ∧
    HostRefuses (.writeFault f) s .illegalHostWrite

/-! ## Display -/

/-- 00E0 clears every pixel, pc + 2, and changes nothing else (R130). -/
def Obligations.ClearScreenResult : Prop :=
  ∀ s : State, Completes .cls s fun t =>
    (∀ r c, t.fb.pixel r c = false) ∧ t.pc = s.pc + 2 ∧ SameExcept [.fb, .pc] s t

/-- DXYN flips exactly the pixels on which a set sprite bit falls, with row and column wraparound; VF
is 1 if one of them was 1 and 0 otherwise; pc + 2; nothing else changes. When a sprite byte lies
outside memory it faults at the first such address and changes nothing else (R131, R132, R133). -/
def Obligations.DrawSpriteResult : Prop :=
  ∀ (s : State) (x y : Reg) (n : Nat), n ≤ 15 →
    if n = 0 ∨ s.i.toNat + n ≤ Config.memSize then
      Completes (.drw x y n) s fun t =>
        (∀ r c, SpriteFallsOn s x y n r c → t.fb.pixel r c = !s.fb.pixel r c) ∧
        (∀ r c, ¬ SpriteFallsOn s x y n r c → t.fb.pixel r c = s.fb.pixel r c) ∧
        ((∃ r c, SpriteFallsOn s x y n r c ∧ s.fb.pixel r c = true) → t.getV 0xF = 1) ∧
        ((¬ ∃ r c, SpriteFallsOn s x y n r c ∧ s.fb.pixel r c = true) → t.getV 0xF = 0) ∧
        RegsSameExcept [0xF] s t ∧ t.pc = s.pc + 2 ∧ SameExcept [.fb, .v, .pc] s t
    else
      ∃ t, exec (.drw x y n) s = .next t ∧
        FaultTaken s t .loadOutOfRange s.opcode (max s.i.toNat Config.memSize)

/-- Drawing a sprite twice at the same place restores the framebuffer, where neither coordinate is VF
(which the first draw writes); source example V-SRC-6. -/
def Obligations.DrawTwiceRestoresFramebuffer : Prop :=
  ∀ (s : State) (x y : Reg) (n : Nat), n ≤ 15 → x ≠ 0xF → y ≠ 0xF →
    n = 0 ∨ s.i.toNat + n ≤ Config.memSize →
    ∃ t u, exec (.drw x y n) s = .next t ∧ exec (.drw x y n) t = .next u ∧
      ∀ r c, u.fb.pixel r c = s.fb.pixel r c

/-- The display sees pixel (r, c) at element r * 64 + c of a linear array of 2048 pixels (R47). -/
def Obligations.DisplayIsRowMajor : Prop :=
  ∀ (s : State) (r : Fin 32) (c : Fin 64),
    s.display.toList.length = 2048 ∧ s.display[r.val * 64 + c.val]? = some (s.fb.pixel r c)

/-! ## Control transfer -/

/-- 00EE with a pending call sets pc to the popped address + 2 and takes sp down by one, leaving the
stack's entries; with sp = 0 it faults with StackUnderflow and changes nothing else (R152). -/
def Obligations.ReturnResult : Prop :=
  ∀ s : State,
    if s.sp = 0 then
      ∃ t, exec .ret s = .next t ∧ FaultTaken s t .stackUnderflow s.opcode 0
    else
      Completes .ret s fun t =>
        t.pc = s.stackAt s.sp + 2 ∧ t.sp.val + 1 = s.sp.val ∧ SameExcept [.sp, .pc] s t

/-- 2NNN takes sp up by one, writes its own address to stack[sp + 1] and jumps to NNN; with sp = 15 it
faults with StackOverflow and changes nothing else (R154). -/
def Obligations.CallResult : Prop :=
  ∀ (s : State) (nnn : Word),
    if s.sp.val = 15 then
      ∃ t, exec (.call nnn) s = .next t ∧ FaultTaken s t .stackOverflow s.opcode 0
    else
      Completes (.call nnn) s fun t =>
        t.pc = nnn ∧ t.sp.val = s.sp.val + 1 ∧ t.stackAt t.sp = s.pc ∧
        (∀ k, k ≠ t.sp → t.stackAt k = s.stackAt k) ∧ SameExcept [.sp, .stack, .pc] s t

/-- A call and the return that matches it, with anything between that leaves sp and the stack as the
call left them, come back to the instruction after the call with sp as before (R41, R43, R152). -/
def Obligations.CallThenReturn : Prop :=
  ∀ (s : State) (nnn : Word), s.sp.val < 15 →
    ∃ t, exec (.call nnn) s = .next t ∧
      ∀ u : State, u.sp = t.sp → u.stack = t.stack →
        ∃ v, exec .ret u = .next v ∧ v.pc = s.pc + 2 ∧ v.sp = s.sp

/-- 1NNN sets pc to NNN and changes nothing else (R153). -/
def Obligations.JumpResult : Prop :=
  ∀ (s : State) (nnn : Word), Completes (.jp nnn) s fun t =>
    t.pc = nnn ∧ SameExcept [.pc] s t

/-- BNNN sets pc to V0 + NNN, which never wraps, and changes nothing else (R160). -/
def Obligations.IndexedJumpResult : Prop :=
  ∀ (s : State) (nnn : Word), (Instr.jpV0 nnn).WellFormed → Completes (.jpV0 nnn) s fun t =>
    t.pc.toNat = (s.getV 0).toNat + nnn.toNat ∧ SameExcept [.pc] s t

/-- 3XNN, 4XNN, 5XY0 and 9XY0 set pc to pc + 4 when their condition holds and pc + 2 when it does not,
and change nothing else (R150, R155 to R159). -/
def Obligations.SkipResults : Prop :=
  ∀ (s : State) (x y : Reg) (nn : Byte),
    (Completes (.seImm x nn) s fun t =>
      t.pc = (if s.getV x = nn then s.pc + 4 else s.pc + 2) ∧ SameExcept [.pc] s t) ∧
    (Completes (.sneImm x nn) s fun t =>
      t.pc = (if s.getV x = nn then s.pc + 2 else s.pc + 4) ∧ SameExcept [.pc] s t) ∧
    (Completes (.seReg x y) s fun t =>
      t.pc = (if s.getV x = s.getV y then s.pc + 4 else s.pc + 2) ∧ SameExcept [.pc] s t) ∧
    (Completes (.sneReg x y) s fun t =>
      t.pc = (if s.getV x = s.getV y then s.pc + 2 else s.pc + 4) ∧ SameExcept [.pc] s t)

/-- A jump to its own address leaves the whole state unchanged but the opcode register, which holds
the jump's word (R310). -/
def Obligations.SelfJumpIsIdle : Prop :=
  ∀ s : State, s.halted = false → s.pc.toNat + 1 < Config.memSize →
    s.fetchWord = encode (.jp s.pc) →
    coreStep s = .next { s with opcode := s.fetchWord }

/-! ## ALU -/

/-- 6XNN sets V[X] to NN, and 7XNN to V[X] + NN mod 256; each then pc + 2, and nothing else changes, VF
included when X is not F (R183, R184). -/
def Obligations.ImmediateResults : Prop :=
  ∀ (s : State) (x : Reg) (nn : Byte),
    (Completes (.ldImm x nn) s fun t =>
      t.getV x = nn ∧ RegsSameExcept [x] s t ∧ t.pc = s.pc + 2 ∧ SameExcept [.v, .pc] s t) ∧
    (Completes (.addImm x nn) s fun t =>
      (t.getV x).toNat = ((s.getV x).toNat + nn.toNat) % 256 ∧ RegsSameExcept [x] s t ∧
      t.pc = s.pc + 2 ∧ SameExcept [.v, .pc] s t)

/-- 8XY0, 8XY1, 8XY2 and 8XY3 set V[X] to V[Y], or to V[X] OR, AND, XOR V[Y]; pc + 2; nothing else
changes, VF included when X is not F (R185 to R189). -/
def Obligations.MoveAndLogicResults : Prop :=
  ∀ (s : State) (x y : Reg),
    (Completes (.ldReg x y) s fun t =>
      t.getV x = s.getV y ∧ RegsSameExcept [x] s t ∧
      t.pc = s.pc + 2 ∧ SameExcept [.v, .pc] s t) ∧
    (Completes (.orReg x y) s fun t =>
      t.getV x = s.getV x ||| s.getV y ∧ RegsSameExcept [x] s t ∧
      t.pc = s.pc + 2 ∧ SameExcept [.v, .pc] s t) ∧
    (Completes (.andReg x y) s fun t =>
      t.getV x = s.getV x &&& s.getV y ∧ RegsSameExcept [x] s t ∧
      t.pc = s.pc + 2 ∧ SameExcept [.v, .pc] s t) ∧
    (Completes (.xorReg x y) s fun t =>
      t.getV x = s.getV x ^^^ s.getV y ∧ RegsSameExcept [x] s t ∧
      t.pc = s.pc + 2 ∧ SameExcept [.v, .pc] s t)

/-- 8XY4 sets V[X] to the sum mod 256 and then VF to the carry, so that with X = F VF is the carry;
pc + 2; nothing else changes (R191, R181). -/
def Obligations.AddWithCarryResult : Prop :=
  ∀ (s : State) (x y : Reg), Completes (.addReg x y) s fun t =>
    t.getV 0xF = (if (s.getV x).toNat + (s.getV y).toNat > 255 then 1 else 0) ∧
    (x ≠ 0xF → (t.getV x).toNat = ((s.getV x).toNat + (s.getV y).toNat) % 256) ∧
    RegsSameExcept [x, 0xF] s t ∧ t.pc = s.pc + 2 ∧ SameExcept [.v, .pc] s t

/-- 8XY5 and 8XY7 set V[X] to V[X] - V[Y] and to V[Y] - V[X] mod 256, and then VF to 0 if the
subtraction borrows and 1 if it does not, so that with X = F VF is that flag; pc + 2; nothing else
changes (R192, R194, R181). -/
def Obligations.SubtractResults : Prop :=
  ∀ (s : State) (x y : Reg),
    (Completes (.subReg x y) s fun t =>
      t.getV 0xF = (if (s.getV x).toNat ≥ (s.getV y).toNat then 1 else 0) ∧
      (x ≠ 0xF → (t.getV x).toNat = ((s.getV x).toNat + 256 - (s.getV y).toNat) % 256) ∧
      RegsSameExcept [x, 0xF] s t ∧ t.pc = s.pc + 2 ∧ SameExcept [.v, .pc] s t) ∧
    (Completes (.subnReg x y) s fun t =>
      t.getV 0xF = (if (s.getV y).toNat ≥ (s.getV x).toNat then 1 else 0) ∧
      (x ≠ 0xF → (t.getV x).toNat = ((s.getV y).toNat + 256 - (s.getV x).toNat) % 256) ∧
      RegsSameExcept [x, 0xF] s t ∧ t.pc = s.pc + 2 ∧ SameExcept [.v, .pc] s t)

/-- 8XY6 and 8XYE, for every Y: VF is the bit shifted out of V[X], and V[X] is V[X] / 2, or V[X] * 2
mod 256; with X = F, VF ends as 0, or as twice its old bit 7; pc + 2; nothing else changes
(R181, R182, R193, R195). -/
def Obligations.ShiftResults : Prop :=
  ∀ (s : State) (x y : Reg),
    (Completes (.shr x y) s fun t =>
      (x ≠ 0xF → (t.getV 0xF).toNat = (s.getV x).toNat % 2 ∧
        (t.getV x).toNat = (s.getV x).toNat / 2) ∧
      (x = 0xF → t.getV 0xF = 0) ∧
      RegsSameExcept [x, 0xF] s t ∧ t.pc = s.pc + 2 ∧ SameExcept [.v, .pc] s t) ∧
    (Completes (.shl x y) s fun t =>
      (x ≠ 0xF → (t.getV 0xF).toNat = (s.getV x).toNat / 128 ∧
        (t.getV x).toNat = (s.getV x).toNat * 2 % 256) ∧
      (x = 0xF → (t.getV 0xF).toNat = 2 * ((s.getV x).toNat / 128)) ∧
      RegsSameExcept [x, 0xF] s t ∧ t.pc = s.pc + 2 ∧ SameExcept [.v, .pc] s t)

/-- CXNN sets V[X] to a byte ANDed with NN, pc + 2, and nothing else changes; and for every byte r
some behaviour of the random source gives r (R196). -/
def Obligations.RandomResult : Prop :=
  (∀ (s : State) (x : Reg) (nn : Byte), Completes (.rnd x nn) s fun t =>
    (∃ r : Byte, t.getV x = r &&& nn) ∧ RegsSameExcept [x] s t ∧ t.pc = s.pc + 2 ∧
    SameExcept [.v, .pc, .rands] s t) ∧
  (∀ (s : State) (x : Reg) (nn r : Byte), ∃ rands, ∃ t,
    exec (.rnd x nn) { s with rands := rands } = .next t ∧ t.getV x = r &&& nn)

/-! ## Index register and memory -/

/-- ANNN sets I to NNN, FX1E to I + V[X] mod 65536, FX29 to 5 * V[X]; pc + 2; nothing else changes,
VF included (R220, R222, R224). -/
def Obligations.IndexRegisterResults : Prop :=
  ∀ (s : State) (x : Reg) (nnn : Word),
    (Completes (.ldI nnn) s fun t =>
      t.i = nnn ∧ t.pc = s.pc + 2 ∧ SameExcept [.i, .pc] s t) ∧
    (Completes (.addI x) s fun t =>
      t.i.toNat = (s.i.toNat + (s.getV x).toNat) % 65536 ∧ t.pc = s.pc + 2 ∧
      SameExcept [.i, .pc] s t) ∧
    (Completes (.ldGlyph x) s fun t =>
      t.i.toNat = 5 * (s.getV x).toNat ∧ t.pc = s.pc + 2 ∧ SameExcept [.i, .pc] s t)

/-- FX33 stores the hundreds, tens and units of V[X] at I, I + 1, I + 2, pc + 2, and nothing else
changes; out of range it faults at the first such address and changes nothing else (R225, R226). -/
def Obligations.DecimalStoreResult : Prop :=
  ∀ (s : State) (x : Reg), s.mem.wf = true →
    if s.i.toNat + 3 ≤ Config.memSize then
      Completes (.bcd x) s fun t =>
        (t.mem.read s.i.toNat).toNat = (s.getV x).toNat / 100 ∧
        (t.mem.read (s.i.toNat + 1)).toNat = (s.getV x).toNat / 10 % 10 ∧
        (t.mem.read (s.i.toNat + 2)).toNat = (s.getV x).toNat % 10 ∧
        MemSameOutside s.i.toNat 3 s t ∧ t.pc = s.pc + 2 ∧ SameExcept [.mem, .pc] s t
    else
      ∃ t, exec (.bcd x) s = .next t ∧
        FaultTaken s t .storeOutOfRange s.opcode (max s.i.toNat Config.memSize)

/-- FX55 stores V0..V[X] at I..I + X, pc + 2, and nothing else changes, I included; out of range it
faults at the first such address and changes nothing else (R227, R228). -/
def Obligations.RegisterStoreResult : Prop :=
  ∀ (s : State) (x : Reg), s.mem.wf = true →
    if s.i.toNat + x.val + 1 ≤ Config.memSize then
      Completes (.storeRegs x) s fun t =>
        (∀ k : Reg, k ≤ x → t.mem.read (s.i.toNat + k.val) = s.getV k) ∧
        MemSameOutside s.i.toNat (x.val + 1) s t ∧ t.pc = s.pc + 2 ∧ SameExcept [.mem, .pc] s t
    else
      ∃ t, exec (.storeRegs x) s = .next t ∧
        FaultTaken s t .storeOutOfRange s.opcode (max s.i.toNat Config.memSize)

/-- FX65 loads V0..V[X] from I..I + X, pc + 2, and nothing else changes, I included; out of range it
faults at the first such address and changes nothing else (R227, R230). -/
def Obligations.RegisterLoadResult : Prop :=
  ∀ (s : State) (x : Reg),
    if s.i.toNat + x.val + 1 ≤ Config.memSize then
      Completes (.loadRegs x) s fun t =>
        (∀ k : Reg, k ≤ x → t.getV k = s.mem.read (s.i.toNat + k.val)) ∧
        (∀ k : Reg, x < k → t.getV k = s.getV k) ∧ t.pc = s.pc + 2 ∧ SameExcept [.v, .pc] s t
    else
      ∃ t, exec (.loadRegs x) s = .next t ∧
        FaultTaken s t .loadOutOfRange s.opcode (max s.i.toNat Config.memSize)

/-- A store by FX55 and then a load by FX65 with the same X and I, with no write to those bytes
between, restores V0..VX exactly (R229). -/
def Obligations.StoreThenLoadRestoresRegisters : Prop :=
  ∀ (s : State) (x : Reg), s.mem.wf = true → s.i.toNat + x.val + 1 ≤ Config.memSize →
    ∃ t, exec (.storeRegs x) s = .next t ∧
      ∀ u : State, u.i = s.i →
        (∀ k : Nat, k ≤ x.val →
          u.mem.read (s.i.toNat + k) = t.mem.read (s.i.toNat + k)) →
        ∃ v, exec (.loadRegs x) u = .next v ∧ ∀ k : Reg, k ≤ x → v.getV k = s.getV k

/-- A store by FX55 over the next instruction is seen by the very next fetch: it fetches V0 and V1
(R88, R313). -/
def Obligations.NextFetchSeesStore : Prop :=
  ∀ (s : State) (x : Reg), s.mem.wf = true → 1 ≤ x.val → s.i = s.pc + 2 →
    s.i.toNat + x.val + 1 ≤ Config.memSize →
    Completes (.storeRegs x) s fun t =>
      t.fetchWord.toNat = (s.getV 0).toNat * 256 + (s.getV 1).toNat

/-! ## Input and timers -/

/-- EX9E skips when the poll's answer is the key code V[X], EXA1 when it is not; no key equals no
byte; nothing of the spec's state but pc changes (R241, R244, R245). -/
def Obligations.KeySkipResults : Prop :=
  ∀ (s : State) (x : Reg),
    (Completes (.skp x) s fun t =>
      ((∃ k, s.keyAnswer = some k ∧ k.toNat = (s.getV x).toNat) → t.pc = s.pc + 4) ∧
      ((¬ ∃ k, s.keyAnswer = some k ∧ k.toNat = (s.getV x).toNat) → t.pc = s.pc + 2) ∧
      SameExcept [.pc, .keys] s t) ∧
    (Completes (.sknp x) s fun t =>
      ((∃ k, s.keyAnswer = some k ∧ k.toNat = (s.getV x).toNat) → t.pc = s.pc + 2) ∧
      ((¬ ∃ k, s.keyAnswer = some k ∧ k.toNat = (s.getV x).toNat) → t.pc = s.pc + 4) ∧
      SameExcept [.pc, .keys] s t)

/-- FX0A with no key changes nothing of the spec's state; with a key it sets V[X] to the key code,
pc + 2, and changes nothing else (R250). -/
def Obligations.KeyWaitResult : Prop :=
  ∀ (s : State) (x : Reg), Completes (.waitKey x) s fun t =>
    (s.keyAnswer = none → SameExcept [.keys] s t) ∧
    (∀ k, s.keyAnswer = some k →
      (t.getV x).toNat = k.toNat ∧ RegsSameExcept [x] s t ∧ t.pc = s.pc + 2 ∧
      SameExcept [.v, .pc, .keys] s t)

/-- A poll may answer any key code or none (R240, R242), whatever the rest of the state. -/
def Obligations.EveryKeyAnswerPossible : Prop :=
  ∀ (s : State) (answer : Option Key), ∃ keys,
    State.keyAnswer { s with keys := keys } = answer

/-- FX07 copies DT to V[X], FX15 sets DT to V[X], FX18 sets ST to V[X]; pc + 2; nothing else changes
(R248, R252, R254). -/
def Obligations.TimerRegisterResults : Prop :=
  ∀ (s : State) (x : Reg),
    (Completes (.ldRegDt x) s fun t =>
      t.getV x = s.dt ∧ RegsSameExcept [x] s t ∧ t.pc = s.pc + 2 ∧ SameExcept [.v, .pc] s t) ∧
    (Completes (.ldDtReg x) s fun t =>
      t.dt = s.getV x ∧ t.pc = s.pc + 2 ∧ SameExcept [.dt, .pc] s t) ∧
    (Completes (.ldStReg x) s fun t =>
      t.st = s.getV x ∧ t.pc = s.pc + 2 ∧ SameExcept [.st, .pc] s t)

/-- A tick takes its timer down by one if it is not 0, leaves it at 0 otherwise, and changes nothing
else, in every state, the halted one too (R275, R278). -/
def Obligations.TickResults : Prop :=
  ∀ (port : HaltedPort) (s : State),
    (∃ t, react port .tickDt s = .next t ∧
      t.dt.toNat = (if s.dt.toNat > 0 then s.dt.toNat - 1 else 0) ∧ SameExcept [.dt] s t) ∧
    (∃ t, react port .tickSt s = .next t ∧
      t.st.toNat = (if s.st.toNat > 0 then s.st.toNat - 1 else 0) ∧ SameExcept [.st] s t)

/-! ## The fault record -/

/-- From the running core, no event writes the fault record but a core step that faults (R51, R263): any
event whose next state is not halted leaves the record as it was, and an event whose next state is
halted is a core step. -/
def Obligations.OnlyFaultingStepWritesRecord : Prop :=
  ∀ (port : HaltedPort) (e : Event) (s t : State), s.halted = false → e ≠ .host .reset →
    react port e s = .next t →
    (t.halted = false → t.fault = s.fault) ∧ (t.halted = true → e = .coreStep)
end

