-- ==== Sys2Proof/Laws/Decode.lean ====
section
/-! SUPPORT. The fields of a word and of the words that the encoder builds, as numbers
(spec/30_encoding.md R101, R102), and the encoder's fields read back. -/

namespace Sys2Proof

/-! ## The fields of a word as numbers (R101) -/

theorem toNat_opOf (w : Word) : (opOf w).toNat = w.toNat / 4096 := by
  have := w.isLt
  simp only [opOf, BitVec.extractLsb'_toNat, Nat.shiftRight_eq_div_pow]
  omega

theorem toNat_nnnOf (w : Word) : (nnnOf w).toNat = w.toNat % 4096 := by
  simp only [nnnOf, BitVec.toNat_setWidth, BitVec.extractLsb'_toNat, Nat.shiftRight_eq_div_pow]
  omega

theorem val_xOf (w : Word) : (xOf w).val = w.toNat / 256 % 16 := by
  simp only [xOf, regOfBits, BitVec.extractLsb'_toNat, Nat.shiftRight_eq_div_pow, Nat.reducePow]

theorem val_yOf (w : Word) : (yOf w).val = w.toNat / 16 % 16 := by
  simp only [yOf, regOfBits, BitVec.extractLsb'_toNat, Nat.shiftRight_eq_div_pow, Nat.reducePow]

theorem toNat_nOf (w : Word) : (nOf w).toNat = w.toNat % 16 := by
  simp only [nOf, BitVec.extractLsb'_toNat, Nat.shiftRight_eq_div_pow, Nat.pow_zero, Nat.div_one,
    Nat.reducePow]

theorem toNat_nnOf (w : Word) : (nnOf w).toNat = w.toNat % 256 := by
  simp only [nnOf, BitVec.extractLsb'_toNat, Nat.shiftRight_eq_div_pow, Nat.pow_zero, Nat.div_one,
    Nat.reducePow]

/-! ## The encoder's words as numbers (R102) -/

theorem toNat_bitsOfReg (x : Reg) : (bitsOfReg x).toNat = x.val := by
  have := x.isLt
  simp only [bitsOfReg, BitVec.toNat_ofNat]
  omega

theorem toNat_addrWord (op : BitVec 4) (nnn : Word) :
    (addrWord op nnn).toNat = op.toNat * 4096 + nnn.toNat % 4096 := by
  simp only [addrWord, BitVec.toNat_append, BitVec.toNat_setWidth]
  rw [← Nat.shiftLeft_add_eq_or_of_lt (by omega), Nat.shiftLeft_eq]

theorem toNat_regByteWord (op : BitVec 4) (x : Reg) (nn : Byte) :
    (regByteWord op x nn).toNat = op.toNat * 4096 + x.val * 256 + nn.toNat := by
  have := x.isLt; have := nn.isLt
  simp only [regByteWord, BitVec.toNat_append, toNat_bitsOfReg]
  rw [← Nat.shiftLeft_add_eq_or_of_lt (by omega), ← Nat.shiftLeft_add_eq_or_of_lt (by omega)]
  simp only [Nat.shiftLeft_eq]
  omega

theorem toNat_regRegWord (op n : BitVec 4) (x y : Reg) :
    (regRegWord op x y n).toNat = op.toNat * 4096 + x.val * 256 + y.val * 16 + n.toNat := by
  have := x.isLt; have := y.isLt; have := n.isLt
  simp only [regRegWord, BitVec.toNat_append, toNat_bitsOfReg]
  rw [← Nat.shiftLeft_add_eq_or_of_lt (by omega), ← Nat.shiftLeft_add_eq_or_of_lt (by omega),
    ← Nat.shiftLeft_add_eq_or_of_lt (by omega)]
  simp only [Nat.shiftLeft_eq]
  omega

/-! ## The encoder's fields read back -/

@[simp] theorem opOf_addrWord (op : BitVec 4) (nnn : Word) : opOf (addrWord op nnn) = op := by
  apply BitVec.eq_of_toNat_eq
  rw [toNat_opOf, toNat_addrWord]
  omega

theorem nnnOf_addrWord (op : BitVec 4) (nnn : Word) (h : addressFits nnn = true) :
    nnnOf (addrWord op nnn) = nnn := by
  have : nnn.toNat < 0x1000 := by simpa [addressFits] using h
  apply BitVec.eq_of_toNat_eq
  rw [toNat_nnnOf, toNat_addrWord]
  omega

@[simp] theorem opOf_regByteWord (op : BitVec 4) (x : Reg) (nn : Byte) :
    opOf (regByteWord op x nn) = op := by
  have := x.isLt; have := nn.isLt
  apply BitVec.eq_of_toNat_eq
  rw [toNat_opOf, toNat_regByteWord]
  omega

@[simp] theorem xOf_regByteWord (op : BitVec 4) (x : Reg) (nn : Byte) :
    xOf (regByteWord op x nn) = x := by
  have := x.isLt; have := nn.isLt
  apply Fin.ext
  rw [val_xOf, toNat_regByteWord]
  omega

@[simp] theorem nnOf_regByteWord (op : BitVec 4) (x : Reg) (nn : Byte) :
    nnOf (regByteWord op x nn) = nn := by
  have := nn.isLt
  apply BitVec.eq_of_toNat_eq
  rw [toNat_nnOf, toNat_regByteWord]
  omega

@[simp] theorem opOf_regRegWord (op n : BitVec 4) (x y : Reg) :
    opOf (regRegWord op x y n) = op := by
  have := x.isLt; have := y.isLt; have := n.isLt
  apply BitVec.eq_of_toNat_eq
  rw [toNat_opOf, toNat_regRegWord]
  omega

@[simp] theorem xOf_regRegWord (op n : BitVec 4) (x y : Reg) :
    xOf (regRegWord op x y n) = x := by
  have := x.isLt; have := y.isLt; have := n.isLt
  apply Fin.ext
  rw [val_xOf, toNat_regRegWord]
  omega

@[simp] theorem yOf_regRegWord (op n : BitVec 4) (x y : Reg) :
    yOf (regRegWord op x y n) = y := by
  have := y.isLt; have := n.isLt
  apply Fin.ext
  rw [val_yOf, toNat_regRegWord]
  omega

@[simp] theorem nOf_regRegWord (op n : BitVec 4) (x y : Reg) :
    nOf (regRegWord op x y n) = n := by
  have := n.isLt
  apply BitVec.eq_of_toNat_eq
  rw [toNat_nOf, toNat_regRegWord]
  omega

/-! ## A word put together again from its fields -/

theorem addrWord_fields {w : Word} {op : BitVec 4} (h : opOf w = op) :
    addrWord op (nnnOf w) = w := by
  subst h
  apply BitVec.eq_of_toNat_eq
  rw [toNat_addrWord, toNat_opOf, toNat_nnnOf]
  omega

theorem regByteWord_fields {w : Word} {op : BitVec 4} (h : opOf w = op) :
    regByteWord op (xOf w) (nnOf w) = w := by
  subst h
  have := w.isLt
  apply BitVec.eq_of_toNat_eq
  rw [toNat_regByteWord, toNat_opOf, toNat_nnOf, val_xOf]
  omega

theorem regRegWord_fields {w : Word} {op n : BitVec 4} (h : opOf w = op) (hn : nOf w = n) :
    regRegWord op (xOf w) (yOf w) n = w := by
  subst h hn
  have := w.isLt
  apply BitVec.eq_of_toNat_eq
  rw [toNat_regRegWord, toNat_opOf, toNat_nOf, val_xOf, val_yOf]
  omega

theorem addressFits_nnnOf (w : Word) : addressFits (nnnOf w) = true := by
  simp only [addressFits, toNat_nnnOf, decide_eq_true_eq]
  omega

/-- The two bytes of a word, put together again (R100). -/
@[simp] theorem wordOfBytes_bytes (w : Word) : wordOfBytes (highByte w) (lowByte w) = w := by
  apply BitVec.eq_of_toNat_eq
  have := w.isLt
  simp only [wordOfBytes, highByte, lowByte, BitVec.toNat_append, BitVec.extractLsb'_toNat]
  rw [← Nat.shiftLeft_add_eq_or_of_lt (by omega), Nat.shiftLeft_eq, Nat.shiftRight_eq_div_pow,
    Nat.shiftRight_eq_div_pow]
  omega

end Sys2Proof
end

