-- ==== Sys2Proof/Laws/State.lean ====
section
/-! SUPPORT. Each field of the state after each update, true by rfl: later proofs unfold no record
update. -/

namespace Sys2Proof.Machine.State

variable (s : State)

/-! ### setV -/

@[simp] theorem setV_v (x : Reg) (b : Byte) : (s.setV x b).v = s.v.set x b := rfl
@[simp] theorem setV_i (x : Reg) (b : Byte) : (s.setV x b).i = s.i := rfl
@[simp] theorem setV_pc (x : Reg) (b : Byte) : (s.setV x b).pc = s.pc := rfl
@[simp] theorem setV_sp (x : Reg) (b : Byte) : (s.setV x b).sp = s.sp := rfl
@[simp] theorem setV_stack (x : Reg) (b : Byte) : (s.setV x b).stack = s.stack := rfl
@[simp] theorem setV_dt (x : Reg) (b : Byte) : (s.setV x b).dt = s.dt := rfl
@[simp] theorem setV_st (x : Reg) (b : Byte) : (s.setV x b).st = s.st := rfl
@[simp] theorem setV_fb (x : Reg) (b : Byte) : (s.setV x b).fb = s.fb := rfl
@[simp] theorem setV_opcode (x : Reg) (b : Byte) : (s.setV x b).opcode = s.opcode := rfl
@[simp] theorem setV_fault (x : Reg) (b : Byte) : (s.setV x b).fault = s.fault := rfl
@[simp] theorem setV_mem (x : Reg) (b : Byte) : (s.setV x b).mem = s.mem := rfl
@[simp] theorem setV_keys (x : Reg) (b : Byte) : (s.setV x b).keys = s.keys := rfl
@[simp] theorem setV_rands (x : Reg) (b : Byte) : (s.setV x b).rands = s.rands := rfl
@[simp] theorem setV_gaps (x : Reg) (b : Byte) : (s.setV x b).gaps = s.gaps := rfl

/-! ### setVF -/

@[simp] theorem setVF_v (b : Byte) : (s.setVF b).v = s.v.set flagReg b := rfl
@[simp] theorem setVF_i (b : Byte) : (s.setVF b).i = s.i := rfl
@[simp] theorem setVF_pc (b : Byte) : (s.setVF b).pc = s.pc := rfl
@[simp] theorem setVF_sp (b : Byte) : (s.setVF b).sp = s.sp := rfl
@[simp] theorem setVF_stack (b : Byte) : (s.setVF b).stack = s.stack := rfl
@[simp] theorem setVF_dt (b : Byte) : (s.setVF b).dt = s.dt := rfl
@[simp] theorem setVF_st (b : Byte) : (s.setVF b).st = s.st := rfl
@[simp] theorem setVF_fb (b : Byte) : (s.setVF b).fb = s.fb := rfl
@[simp] theorem setVF_opcode (b : Byte) : (s.setVF b).opcode = s.opcode := rfl
@[simp] theorem setVF_fault (b : Byte) : (s.setVF b).fault = s.fault := rfl
@[simp] theorem setVF_mem (b : Byte) : (s.setVF b).mem = s.mem := rfl
@[simp] theorem setVF_keys (b : Byte) : (s.setVF b).keys = s.keys := rfl
@[simp] theorem setVF_rands (b : Byte) : (s.setVF b).rands = s.rands := rfl
@[simp] theorem setVF_gaps (b : Byte) : (s.setVF b).gaps = s.gaps := rfl

/-! ### setI -/

@[simp] theorem setI_v (w : Word) : (s.setI w).v = s.v := rfl
@[simp] theorem setI_i (w : Word) : (s.setI w).i = w := rfl
@[simp] theorem setI_pc (w : Word) : (s.setI w).pc = s.pc := rfl
@[simp] theorem setI_sp (w : Word) : (s.setI w).sp = s.sp := rfl
@[simp] theorem setI_stack (w : Word) : (s.setI w).stack = s.stack := rfl
@[simp] theorem setI_dt (w : Word) : (s.setI w).dt = s.dt := rfl
@[simp] theorem setI_st (w : Word) : (s.setI w).st = s.st := rfl
@[simp] theorem setI_fb (w : Word) : (s.setI w).fb = s.fb := rfl
@[simp] theorem setI_opcode (w : Word) : (s.setI w).opcode = s.opcode := rfl
@[simp] theorem setI_fault (w : Word) : (s.setI w).fault = s.fault := rfl
@[simp] theorem setI_mem (w : Word) : (s.setI w).mem = s.mem := rfl
@[simp] theorem setI_keys (w : Word) : (s.setI w).keys = s.keys := rfl
@[simp] theorem setI_rands (w : Word) : (s.setI w).rands = s.rands := rfl
@[simp] theorem setI_gaps (w : Word) : (s.setI w).gaps = s.gaps := rfl

/-! ### finish -/

@[simp] theorem finish_v (o : PcOutcome) : (s.finish o).v = s.v := rfl
@[simp] theorem finish_i (o : PcOutcome) : (s.finish o).i = s.i := rfl
@[simp] theorem finish_pc (o : PcOutcome) : (s.finish o).pc = o.target s.pc := rfl
@[simp] theorem finish_sp (o : PcOutcome) : (s.finish o).sp = s.sp := rfl
@[simp] theorem finish_stack (o : PcOutcome) : (s.finish o).stack = s.stack := rfl
@[simp] theorem finish_dt (o : PcOutcome) : (s.finish o).dt = s.dt := rfl
@[simp] theorem finish_st (o : PcOutcome) : (s.finish o).st = s.st := rfl
@[simp] theorem finish_fb (o : PcOutcome) : (s.finish o).fb = s.fb := rfl
@[simp] theorem finish_opcode (o : PcOutcome) : (s.finish o).opcode = s.opcode := rfl
@[simp] theorem finish_fault (o : PcOutcome) : (s.finish o).fault = s.fault := rfl
@[simp] theorem finish_mem (o : PcOutcome) : (s.finish o).mem = s.mem := rfl
@[simp] theorem finish_keys (o : PcOutcome) : (s.finish o).keys = s.keys := rfl
@[simp] theorem finish_rands (o : PcOutcome) : (s.finish o).rands = s.rands := rfl
@[simp] theorem finish_gaps (o : PcOutcome) : (s.finish o).gaps = s.gaps := rfl

/-! ### push -/

@[simp] theorem push_v (w : Word) : (s.push w).v = s.v := rfl
@[simp] theorem push_i (w : Word) : (s.push w).i = s.i := rfl
@[simp] theorem push_pc (w : Word) : (s.push w).pc = s.pc := rfl
@[simp] theorem push_sp (w : Word) : (s.push w).sp = s.sp + 1 := rfl
@[simp] theorem push_stack (w : Word) : (s.push w).stack = s.stack.set (s.sp + 1 : Fin 16) w := rfl
@[simp] theorem push_dt (w : Word) : (s.push w).dt = s.dt := rfl
@[simp] theorem push_st (w : Word) : (s.push w).st = s.st := rfl
@[simp] theorem push_fb (w : Word) : (s.push w).fb = s.fb := rfl
@[simp] theorem push_opcode (w : Word) : (s.push w).opcode = s.opcode := rfl
@[simp] theorem push_fault (w : Word) : (s.push w).fault = s.fault := rfl
@[simp] theorem push_mem (w : Word) : (s.push w).mem = s.mem := rfl
@[simp] theorem push_keys (w : Word) : (s.push w).keys = s.keys := rfl
@[simp] theorem push_rands (w : Word) : (s.push w).rands = s.rands := rfl
@[simp] theorem push_gaps (w : Word) : (s.push w).gaps = s.gaps := rfl

/-! ### drop -/

@[simp] theorem drop_v : s.drop.v = s.v := rfl
@[simp] theorem drop_i : s.drop.i = s.i := rfl
@[simp] theorem drop_pc : s.drop.pc = s.pc := rfl
@[simp] theorem drop_sp : s.drop.sp = s.sp - 1 := rfl
@[simp] theorem drop_stack : s.drop.stack = s.stack := rfl
@[simp] theorem drop_dt : s.drop.dt = s.dt := rfl
@[simp] theorem drop_st : s.drop.st = s.st := rfl
@[simp] theorem drop_fb : s.drop.fb = s.fb := rfl
@[simp] theorem drop_opcode : s.drop.opcode = s.opcode := rfl
@[simp] theorem drop_fault : s.drop.fault = s.fault := rfl
@[simp] theorem drop_mem : s.drop.mem = s.mem := rfl
@[simp] theorem drop_keys : s.drop.keys = s.keys := rfl
@[simp] theorem drop_rands : s.drop.rands = s.rands := rfl
@[simp] theorem drop_gaps : s.drop.gaps = s.gaps := rfl

/-! ### takeFault -/

@[simp] theorem takeFault_v (c : Cause) (w : Word) (a : Nat) : (s.takeFault c w a).v = s.v := rfl
@[simp] theorem takeFault_i (c : Cause) (w : Word) (a : Nat) : (s.takeFault c w a).i = s.i := rfl
@[simp] theorem takeFault_pc (c : Cause) (w : Word) (a : Nat) : (s.takeFault c w a).pc = s.pc := rfl
@[simp] theorem takeFault_sp (c : Cause) (w : Word) (a : Nat) : (s.takeFault c w a).sp = s.sp := rfl
@[simp] theorem takeFault_stack (c : Cause) (w : Word) (a : Nat) :
    (s.takeFault c w a).stack =
      s.stack := rfl
@[simp] theorem takeFault_dt (c : Cause) (w : Word) (a : Nat) : (s.takeFault c w a).dt = s.dt := rfl
@[simp] theorem takeFault_st (c : Cause) (w : Word) (a : Nat) : (s.takeFault c w a).st = s.st := rfl
@[simp] theorem takeFault_fb (c : Cause) (w : Word) (a : Nat) : (s.takeFault c w a).fb = s.fb := rfl
@[simp] theorem takeFault_opcode (c : Cause) (w : Word) (a : Nat) :
    (s.takeFault c w a).opcode =
      s.opcode := rfl
@[simp] theorem takeFault_fault (c : Cause) (w : Word) (a : Nat) :
    (s.takeFault c w a).fault =
      { valid := true, cause := c.code, pc := s.pc, opcode := w, addr := BitVec.ofNat 17 a } := rfl
@[simp] theorem takeFault_mem (c : Cause) (w : Word) (a : Nat) :
    (s.takeFault c w a).mem =
      s.mem := rfl
@[simp] theorem takeFault_keys (c : Cause) (w : Word) (a : Nat) :
    (s.takeFault c w a).keys =
      s.keys := rfl
@[simp] theorem takeFault_rands (c : Cause) (w : Word) (a : Nat) :
    (s.takeFault c w a).rands =
      s.rands := rfl
@[simp] theorem takeFault_gaps (c : Cause) (w : Word) (a : Nat) :
    (s.takeFault c w a).gaps =
      s.gaps := rfl

/-! ### raise -/

@[simp] theorem raise_v (c : Cause) (a : Nat) : (s.raise c a).v = s.v := rfl
@[simp] theorem raise_i (c : Cause) (a : Nat) : (s.raise c a).i = s.i := rfl
@[simp] theorem raise_pc (c : Cause) (a : Nat) : (s.raise c a).pc = s.pc := rfl
@[simp] theorem raise_sp (c : Cause) (a : Nat) : (s.raise c a).sp = s.sp := rfl
@[simp] theorem raise_stack (c : Cause) (a : Nat) : (s.raise c a).stack = s.stack := rfl
@[simp] theorem raise_dt (c : Cause) (a : Nat) : (s.raise c a).dt = s.dt := rfl
@[simp] theorem raise_st (c : Cause) (a : Nat) : (s.raise c a).st = s.st := rfl
@[simp] theorem raise_fb (c : Cause) (a : Nat) : (s.raise c a).fb = s.fb := rfl
@[simp] theorem raise_opcode (c : Cause) (a : Nat) : (s.raise c a).opcode = s.opcode := rfl
@[simp] theorem raise_fault (c : Cause) (a : Nat) :
    (s.raise c a).fault =
      { valid := true, cause := c.code, pc := s.pc, opcode := s.opcode, addr := BitVec.ofNat 17 a } := rfl
@[simp] theorem raise_mem (c : Cause) (a : Nat) : (s.raise c a).mem = s.mem := rfl
@[simp] theorem raise_keys (c : Cause) (a : Nat) : (s.raise c a).keys = s.keys := rfl
@[simp] theorem raise_rands (c : Cause) (a : Nat) : (s.raise c a).rands = s.rands := rfl
@[simp] theorem raise_gaps (c : Cause) (a : Nat) : (s.raise c a).gaps = s.gaps := rfl

/-! ### raiseFetch -/

@[simp] theorem raiseFetch_v (a : Nat) : (s.raiseFetch a).v = s.v := rfl
@[simp] theorem raiseFetch_i (a : Nat) : (s.raiseFetch a).i = s.i := rfl
@[simp] theorem raiseFetch_pc (a : Nat) : (s.raiseFetch a).pc = s.pc := rfl
@[simp] theorem raiseFetch_sp (a : Nat) : (s.raiseFetch a).sp = s.sp := rfl
@[simp] theorem raiseFetch_stack (a : Nat) : (s.raiseFetch a).stack = s.stack := rfl
@[simp] theorem raiseFetch_dt (a : Nat) : (s.raiseFetch a).dt = s.dt := rfl
@[simp] theorem raiseFetch_st (a : Nat) : (s.raiseFetch a).st = s.st := rfl
@[simp] theorem raiseFetch_fb (a : Nat) : (s.raiseFetch a).fb = s.fb := rfl
@[simp] theorem raiseFetch_opcode (a : Nat) : (s.raiseFetch a).opcode = s.opcode := rfl
@[simp] theorem raiseFetch_fault (a : Nat) :
    (s.raiseFetch a).fault =
      { valid := true, cause := Cause.fetchOutOfRange.code, pc := s.pc, opcode := 0,
        addr := BitVec.ofNat 17 a } := rfl
@[simp] theorem raiseFetch_mem (a : Nat) : (s.raiseFetch a).mem = s.mem := rfl
@[simp] theorem raiseFetch_keys (a : Nat) : (s.raiseFetch a).keys = s.keys := rfl
@[simp] theorem raiseFetch_rands (a : Nat) : (s.raiseFetch a).rands = s.rands := rfl
@[simp] theorem raiseFetch_gaps (a : Nat) : (s.raiseFetch a).gaps = s.gaps := rfl

/-! ### keyPolled -/

@[simp] theorem keyPolled_v : s.keyPolled.v = s.v := rfl
@[simp] theorem keyPolled_i : s.keyPolled.i = s.i := rfl
@[simp] theorem keyPolled_pc : s.keyPolled.pc = s.pc := rfl
@[simp] theorem keyPolled_sp : s.keyPolled.sp = s.sp := rfl
@[simp] theorem keyPolled_stack : s.keyPolled.stack = s.stack := rfl
@[simp] theorem keyPolled_dt : s.keyPolled.dt = s.dt := rfl
@[simp] theorem keyPolled_st : s.keyPolled.st = s.st := rfl
@[simp] theorem keyPolled_fb : s.keyPolled.fb = s.fb := rfl
@[simp] theorem keyPolled_opcode : s.keyPolled.opcode = s.opcode := rfl
@[simp] theorem keyPolled_fault : s.keyPolled.fault = s.fault := rfl
@[simp] theorem keyPolled_mem : s.keyPolled.mem = s.mem := rfl
@[simp] theorem keyPolled_keys : s.keyPolled.keys = (s.keys.draw Config.keyAnswer).2 := rfl
@[simp] theorem keyPolled_rands : s.keyPolled.rands = s.rands := rfl
@[simp] theorem keyPolled_gaps : s.keyPolled.gaps = s.gaps := rfl

/-! ### randomDrawn -/

@[simp] theorem randomDrawn_v : s.randomDrawn.v = s.v := rfl
@[simp] theorem randomDrawn_i : s.randomDrawn.i = s.i := rfl
@[simp] theorem randomDrawn_pc : s.randomDrawn.pc = s.pc := rfl
@[simp] theorem randomDrawn_sp : s.randomDrawn.sp = s.sp := rfl
@[simp] theorem randomDrawn_stack : s.randomDrawn.stack = s.stack := rfl
@[simp] theorem randomDrawn_dt : s.randomDrawn.dt = s.dt := rfl
@[simp] theorem randomDrawn_st : s.randomDrawn.st = s.st := rfl
@[simp] theorem randomDrawn_fb : s.randomDrawn.fb = s.fb := rfl
@[simp] theorem randomDrawn_opcode : s.randomDrawn.opcode = s.opcode := rfl
@[simp] theorem randomDrawn_fault : s.randomDrawn.fault = s.fault := rfl
@[simp] theorem randomDrawn_mem : s.randomDrawn.mem = s.mem := rfl
@[simp] theorem randomDrawn_keys : s.randomDrawn.keys = s.keys := rfl
@[simp] theorem randomDrawn_rands : s.randomDrawn.rands = (s.rands.draw Config.randomByte).2 := rfl
@[simp] theorem randomDrawn_gaps : s.randomDrawn.gaps = s.gaps := rfl

/-! ### latch -/

@[simp] theorem latch_v (w : Word) : (s.latch w).v = s.v := rfl
@[simp] theorem latch_i (w : Word) : (s.latch w).i = s.i := rfl
@[simp] theorem latch_pc (w : Word) : (s.latch w).pc = s.pc := rfl
@[simp] theorem latch_sp (w : Word) : (s.latch w).sp = s.sp := rfl
@[simp] theorem latch_stack (w : Word) : (s.latch w).stack = s.stack := rfl
@[simp] theorem latch_dt (w : Word) : (s.latch w).dt = s.dt := rfl
@[simp] theorem latch_st (w : Word) : (s.latch w).st = s.st := rfl
@[simp] theorem latch_fb (w : Word) : (s.latch w).fb = s.fb := rfl
@[simp] theorem latch_opcode (w : Word) : (s.latch w).opcode = w := rfl
@[simp] theorem latch_fault (w : Word) : (s.latch w).fault = s.fault := rfl
@[simp] theorem latch_mem (w : Word) : (s.latch w).mem = s.mem := rfl
@[simp] theorem latch_keys (w : Word) : (s.latch w).keys = s.keys := rfl
@[simp] theorem latch_rands (w : Word) : (s.latch w).rands = s.rands := rfl
@[simp] theorem latch_gaps (w : Word) : (s.latch w).gaps = s.gaps := rfl

/-! ### tickDt -/

@[simp] theorem tickDt_v : s.tickDt.v = s.v := rfl
@[simp] theorem tickDt_i : s.tickDt.i = s.i := rfl
@[simp] theorem tickDt_pc : s.tickDt.pc = s.pc := rfl
@[simp] theorem tickDt_sp : s.tickDt.sp = s.sp := rfl
@[simp] theorem tickDt_stack : s.tickDt.stack = s.stack := rfl
@[simp] theorem tickDt_dt : s.tickDt.dt = tick s.dt := rfl
@[simp] theorem tickDt_st : s.tickDt.st = s.st := rfl
@[simp] theorem tickDt_fb : s.tickDt.fb = s.fb := rfl
@[simp] theorem tickDt_opcode : s.tickDt.opcode = s.opcode := rfl
@[simp] theorem tickDt_fault : s.tickDt.fault = s.fault := rfl
@[simp] theorem tickDt_mem : s.tickDt.mem = s.mem := rfl
@[simp] theorem tickDt_keys : s.tickDt.keys = s.keys := rfl
@[simp] theorem tickDt_rands : s.tickDt.rands = s.rands := rfl
@[simp] theorem tickDt_gaps : s.tickDt.gaps = s.gaps := rfl

/-! ### tickSt -/

@[simp] theorem tickSt_v : s.tickSt.v = s.v := rfl
@[simp] theorem tickSt_i : s.tickSt.i = s.i := rfl
@[simp] theorem tickSt_pc : s.tickSt.pc = s.pc := rfl
@[simp] theorem tickSt_sp : s.tickSt.sp = s.sp := rfl
@[simp] theorem tickSt_stack : s.tickSt.stack = s.stack := rfl
@[simp] theorem tickSt_dt : s.tickSt.dt = s.dt := rfl
@[simp] theorem tickSt_st : s.tickSt.st = tick s.st := rfl
@[simp] theorem tickSt_fb : s.tickSt.fb = s.fb := rfl
@[simp] theorem tickSt_opcode : s.tickSt.opcode = s.opcode := rfl
@[simp] theorem tickSt_fault : s.tickSt.fault = s.fault := rfl
@[simp] theorem tickSt_mem : s.tickSt.mem = s.mem := rfl
@[simp] theorem tickSt_keys : s.tickSt.keys = s.keys := rfl
@[simp] theorem tickSt_rands : s.tickSt.rands = s.rands := rfl
@[simp] theorem tickSt_gaps : s.tickSt.gaps = s.gaps := rfl

/-! ### passGap -/

@[simp] theorem passGap_v (g : Gap) : (s.passGap g).v = s.v := rfl
@[simp] theorem passGap_i (g : Gap) : (s.passGap g).i = s.i := rfl
@[simp] theorem passGap_pc (g : Gap) : (s.passGap g).pc = s.pc := rfl
@[simp] theorem passGap_sp (g : Gap) : (s.passGap g).sp = s.sp := rfl
@[simp] theorem passGap_stack (g : Gap) : (s.passGap g).stack = s.stack := rfl
@[simp] theorem passGap_dt (g : Gap) : (s.passGap g).dt = tickTimes g.dtTicks s.dt := rfl
@[simp] theorem passGap_st (g : Gap) : (s.passGap g).st = tickTimes g.stTicks s.st := rfl
@[simp] theorem passGap_fb (g : Gap) : (s.passGap g).fb = s.fb := rfl
@[simp] theorem passGap_opcode (g : Gap) : (s.passGap g).opcode = s.opcode := rfl
@[simp] theorem passGap_fault (g : Gap) : (s.passGap g).fault = s.fault := rfl
@[simp] theorem passGap_mem (g : Gap) : (s.passGap g).mem = s.mem := rfl
@[simp] theorem passGap_keys (g : Gap) : (s.passGap g).keys = s.keys := rfl
@[simp] theorem passGap_rands (g : Gap) : (s.passGap g).rands = s.rands := rfl
@[simp] theorem passGap_gaps (g : Gap) : (s.passGap g).gaps = s.gaps := rfl

/-! ### gapDrawn -/

@[simp] theorem gapDrawn_v : s.gapDrawn.v = s.v := rfl
@[simp] theorem gapDrawn_i : s.gapDrawn.i = s.i := rfl
@[simp] theorem gapDrawn_pc : s.gapDrawn.pc = s.pc := rfl
@[simp] theorem gapDrawn_sp : s.gapDrawn.sp = s.sp := rfl
@[simp] theorem gapDrawn_stack : s.gapDrawn.stack = s.stack := rfl
@[simp] theorem gapDrawn_dt : s.gapDrawn.dt = s.dt := rfl
@[simp] theorem gapDrawn_st : s.gapDrawn.st = s.st := rfl
@[simp] theorem gapDrawn_fb : s.gapDrawn.fb = s.fb := rfl
@[simp] theorem gapDrawn_opcode : s.gapDrawn.opcode = s.opcode := rfl
@[simp] theorem gapDrawn_fault : s.gapDrawn.fault = s.fault := rfl
@[simp] theorem gapDrawn_mem : s.gapDrawn.mem = s.mem := rfl
@[simp] theorem gapDrawn_keys : s.gapDrawn.keys = s.keys := rfl
@[simp] theorem gapDrawn_rands : s.gapDrawn.rands = s.rands := rfl
@[simp] theorem gapDrawn_gaps : s.gapDrawn.gaps = (s.gaps.draw Config.gapTicks).2 := rfl

/-! ### openGap -/

@[simp] theorem openGap_v : s.openGap.v = s.v := rfl
@[simp] theorem openGap_i : s.openGap.i = s.i := rfl
@[simp] theorem openGap_pc : s.openGap.pc = s.pc := rfl
@[simp] theorem openGap_sp : s.openGap.sp = s.sp := rfl
@[simp] theorem openGap_stack : s.openGap.stack = s.stack := rfl
@[simp] theorem openGap_dt : s.openGap.dt = tickTimes s.gapAnswer.dtTicks s.dt := rfl
@[simp] theorem openGap_st : s.openGap.st = tickTimes s.gapAnswer.stTicks s.st := rfl
@[simp] theorem openGap_fb : s.openGap.fb = s.fb := rfl
@[simp] theorem openGap_opcode : s.openGap.opcode = s.opcode := rfl
@[simp] theorem openGap_fault : s.openGap.fault = s.fault := rfl
@[simp] theorem openGap_mem : s.openGap.mem = s.mem := rfl
@[simp] theorem openGap_keys : s.openGap.keys = s.keys := rfl
@[simp] theorem openGap_rands : s.openGap.rands = s.rands := rfl
@[simp] theorem openGap_gaps : s.openGap.gaps = (s.gaps.draw Config.gapTicks).2 := rfl

/-! ### resetCore -/

@[simp] theorem resetCore_v : s.resetCore.v = State.reset.v := rfl
@[simp] theorem resetCore_i : s.resetCore.i = State.reset.i := rfl
@[simp] theorem resetCore_pc : s.resetCore.pc = State.reset.pc := rfl
@[simp] theorem resetCore_sp : s.resetCore.sp = State.reset.sp := rfl
@[simp] theorem resetCore_stack : s.resetCore.stack = State.reset.stack := rfl
@[simp] theorem resetCore_dt : s.resetCore.dt = State.reset.dt := rfl
@[simp] theorem resetCore_st : s.resetCore.st = State.reset.st := rfl
@[simp] theorem resetCore_fb : s.resetCore.fb = State.reset.fb := rfl
@[simp] theorem resetCore_opcode : s.resetCore.opcode = State.reset.opcode := rfl
@[simp] theorem resetCore_fault : s.resetCore.fault = State.reset.fault := rfl
@[simp] theorem resetCore_mem : s.resetCore.mem = State.reset.mem := rfl
@[simp] theorem resetCore_keys : s.resetCore.keys = s.keys := rfl
@[simp] theorem resetCore_rands : s.resetCore.rands = s.rands := rfl
@[simp] theorem resetCore_gaps : s.resetCore.gaps = s.gaps := rfl

end Sys2Proof.Machine.State
end

