-- ==== Sys2Proof/Laws/Environment.lean ====
section
/-! SUPPORT. The environment's answers, and the timers' ticks (spec/60_exceptions.md R275, R276). -/

namespace Sys2Proof.Machine

/-- An answer lined up is the answer given. -/
@[simp] theorem Feed.draw_upcoming {α : Type} (free : Nat → α) (a : α) (rest : List α) (n : Nat) :
    Feed.draw free ⟨a :: rest, n⟩ = (a, ⟨rest, n⟩) := rfl

/-- With nothing lined up the answer is the free value. -/
@[simp] theorem Feed.draw_free {α : Type} (free : Nat → α) (n : Nat) :
    Feed.draw free ⟨[], n⟩ = (free n, ⟨[], n + 1⟩) := rfl

/-- One tick as a number: down by one, and 0 stays 0. -/
theorem toNat_tick (t : Byte) : (tick t).toNat = t.toNat - 1 := by
  unfold tick
  split
  · bv_omega
  · omega

/-- n ticks as a number. -/
theorem toNat_tickTimes (n : Nat) (t : Byte) : (tickTimes n t).toNat = t.toNat - n := by
  unfold tickTimes
  have := t.isLt
  split
  · next h => subst h; simp
  · rw [BitVec.toNat_ofNat]; omega

end Sys2Proof.Machine
end

