-- ==== Sys2Proof/Laws/Memory.lean ====
section
/-! SUPPORT. Memory: a read after a write, the bytes of a multi-byte access, the one form that every
operation keeps, and the range check. -/

namespace Sys2Proof.Machine

/-! ## Memory's one form -/

theorem Memory.wfFrom_cons {lo a : Nat} {x : Byte} {m : Memory} :
    Memory.wfFrom lo ((a, x) :: m) = true ↔
      lo ≤ a ∧ a < Config.memSize ∧ x ≠ Memory.unlisted a ∧ Memory.wfFrom (a + 1) m = true := by
  simp [Memory.wfFrom, and_assoc]

theorem Memory.wfFrom_mono {m : Memory} {lo hi : Nat} (hle : lo ≤ hi)
    (h : Memory.wfFrom hi m = true) : Memory.wfFrom lo m = true := by
  cases m with
  | nil => rfl
  | cons c m =>
    obtain ⟨a, x⟩ := c
    rw [Memory.wfFrom_cons] at h ⊢
    exact ⟨by omega, h.2⟩

/-- A cell below every listed one holds its reset contents. -/
theorem Memory.read_below {m : Memory} {lo a : Nat} (h : Memory.wfFrom lo m = true) (ha : a < lo) :
    m.read a = Memory.unlisted a := by
  induction m generalizing lo with
  | nil => rfl
  | cons c m ih =>
    obtain ⟨b, x⟩ := c
    rw [Memory.wfFrom_cons] at h
    rw [Memory.read, if_neg (by omega)]
    exact ih h.2.2.2 (by omega)

theorem Memory.wfFrom_write {m : Memory} {lo a : Nat} (x : Byte) (h : Memory.wfFrom lo m = true)
    (hlo : lo ≤ a) (ha : a < Config.memSize) : Memory.wfFrom lo (m.write a x) = true := by
  induction m generalizing lo with
  | nil =>
    by_cases hx : x = Memory.unlisted a <;> simp [Memory.write, hx, Memory.wfFrom, hlo, ha]
  | cons c m ih =>
    obtain ⟨b, y⟩ := c
    have hb := Memory.wfFrom_cons.mp h
    rw [Memory.write]
    split_ifs with hlt hx heq hx'
    · exact h
    · exact Memory.wfFrom_cons.mpr ⟨hlo, ha, hx, Memory.wfFrom_cons.mpr ⟨hlt, hb.2⟩⟩
    · exact Memory.wfFrom_mono (by omega) hb.2.2.2
    · exact Memory.wfFrom_cons.mpr ⟨hlo, ha, hx', heq ▸ hb.2.2.2⟩
    · exact Memory.wfFrom_cons.mpr ⟨hb.1, hb.2.1, hb.2.2.1, ih hb.2.2.2 (by omega)⟩

/-- Writing a cell that exists keeps memory's one form. -/
theorem Memory.wf_write {m : Memory} {a : Nat} (x : Byte) (h : m.wf = true)
    (ha : a < Config.memSize) : (m.write a x).wf = true :=
  Memory.wfFrom_write x h (Nat.zero_le a) ha

/-- Writing cells that exist keeps memory's one form. -/
theorem Memory.wf_writeBytes {m : Memory} {a : Nat} {bytes : List Byte} (h : m.wf = true)
    (ha : bytes = [] ∨ a + bytes.length ≤ Config.memSize) : (m.writeBytes a bytes).wf = true := by
  induction bytes generalizing m a with
  | nil => exact h
  | cons x xs ih =>
    have hlen : a + (xs.length + 1) ≤ Config.memSize := by simpa using ha
    exact ih (Memory.wf_write x h (by omega)) (.inr (by omega))

/-! ## A read after a write -/

theorem Memory.read_write_from {m : Memory} {lo : Nat} (h : Memory.wfFrom lo m = true)
    (a b : Nat) (x : Byte) : (m.write a x).read b = if b = a then x else m.read b := by
  induction m generalizing lo with
  | nil =>
    by_cases hx : x = Memory.unlisted a <;> by_cases hb : b = a <;>
      simp [Memory.write, Memory.read, hx, hb]
  | cons c m ih =>
    obtain ⟨c, y⟩ := c
    obtain ⟨-, -, -, hm⟩ := Memory.wfFrom_cons.mp h
    rw [Memory.write]
    by_cases hb : b = a
    · subst hb
      rw [if_pos rfl]
      split_ifs with hlt hx heq hx
      · rw [Memory.read, if_neg (by omega), Memory.read_below hm (by omega), hx]
      · rw [Memory.read, if_pos rfl]
      · rw [Memory.read_below hm (by omega), hx]
      · rw [Memory.read, if_pos rfl]
      · rw [Memory.read, if_neg heq, ih hm, if_pos rfl]
    · rw [if_neg hb]
      split_ifs with hlt hx heq hx
      · rfl
      · rw [Memory.read, if_neg hb]
      · rw [Memory.read, if_neg (heq ▸ hb)]
      · rw [Memory.read, if_neg hb, Memory.read, if_neg (heq ▸ hb)]
      · rw [Memory.read, Memory.read, ih hm, if_neg hb]

/-- A read after a write: the value written at its address, the old value elsewhere (R73). -/
theorem Memory.read_write {m : Memory} (h : m.wf = true) (a b : Nat) (x : Byte) :
    (m.write a x).read b = if b = a then x else m.read b :=
  Memory.read_write_from h a b x

/-- A read outside the bytes written gives the old value. -/
theorem Memory.read_writeBytes_outside {m : Memory} {a b : Nat} {bytes : List Byte}
    (h : m.wf = true) (ha : bytes = [] ∨ a + bytes.length ≤ Config.memSize)
    (hb : b < a ∨ a + bytes.length ≤ b) : (m.writeBytes a bytes).read b = m.read b := by
  induction bytes generalizing m a with
  | nil => rfl
  | cons x xs ih =>
    have hlen : a + (xs.length + 1) ≤ Config.memSize := by simpa using ha
    rw [List.length_cons] at hb
    rw [Memory.writeBytes, ih (Memory.wf_write x h (by omega)) (.inr (by omega)) (by omega),
      Memory.read_write h, if_neg (by omega)]

/-- A read inside the bytes written gives the byte written there. -/
theorem Memory.read_writeBytes_inside {m : Memory} {a k : Nat} {bytes : List Byte}
    (h : m.wf = true) (ha : a + bytes.length ≤ Config.memSize) (hk : k < bytes.length) :
    (m.writeBytes a bytes).read (a + k) = bytes[k] := by
  induction bytes generalizing m a k with
  | nil => simp at hk
  | cons x xs ih =>
    have hlen : a + (xs.length + 1) ≤ Config.memSize := by simpa using ha
    rw [Memory.writeBytes]
    have hwf := Memory.wf_write x h (by omega : a < Config.memSize)
    cases k with
    | zero =>
      rw [Memory.read_writeBytes_outside hwf (.inr (by omega)) (by omega), Memory.read_write h,
        if_pos (Nat.add_zero a)]
      rfl
    | succ k =>
      have hk' : k < xs.length := by simpa using hk
      have := ih hwf (show a + 1 + xs.length ≤ Config.memSize by omega) hk'
      rw [show a + (k + 1) = a + 1 + k by omega, this]
      rfl

@[simp] theorem Memory.length_readBytes (m : Memory) (a n : Nat) :
    (m.readBytes a n).length = n := by
  induction n generalizing a with
  | zero => rfl
  | succ n ih => simp [Memory.readBytes, ih]

/-- The k-th byte of a multi-byte read is the byte at a + k. -/
theorem Memory.getElem_readBytes (m : Memory) (a n k : Nat) (hk : k < (m.readBytes a n).length) :
    (m.readBytes a n)[k] = m.read (a + k) := by
  induction n generalizing a k with
  | zero => simp [Memory.readBytes] at hk
  | succ n ih =>
    cases k with
    | zero => simp [Memory.readBytes]
    | succ k =>
      have := ih (a + 1) k (by simpa [Memory.readBytes] using hk)
      simpa [Memory.readBytes, Nat.add_assoc, Nat.add_comm 1 k] using this

/-! ## The range check -/

/-- The check passes exactly when no byte is accessed or the last one exists (R76). -/
theorem firstOutOfRange_eq_none {a n : Nat} :
    firstOutOfRange a n = none ↔ n = 0 ∨ a + n ≤ Config.memSize := by
  induction n generalizing a with
  | zero => simp [firstOutOfRange]
  | succ n ih =>
    rw [firstOutOfRange]
    split_ifs with h
    · simp only [false_or, false_iff]
      omega
    · rw [ih]
      simp only [false_or]
      omega

/-- What the check reports: the lowest address of the access that does not exist (R74, R76). -/
theorem firstOutOfRange_eq_some {a n b : Nat} :
    firstOutOfRange a n = some b ↔
      a ≤ b ∧ b < a + n ∧ Config.memSize ≤ b ∧ (b = a ∨ b = Config.memSize) := by
  induction n generalizing a with
  | zero => simp only [firstOutOfRange, reduceCtorEq, false_iff]; omega
  | succ n ih =>
    rw [firstOutOfRange]
    split_ifs with h
    · rw [Option.some_inj]; omega
    · rw [ih]; omega

end Sys2Proof.Machine
end

