-- ==== Sys2Proof/Laws/Registers.lean ====
section
/-! SUPPORT. Registers: a read after a write, the range V0..VX, the stack, and the pc outcome. -/

namespace Sys2Proof.Machine

/-- V[r] after V[x] <- b (spec/00_scope.md R21). -/
theorem State.getV_setV (s : State) (x r : Reg) (b : Byte) :
    (s.setV x b).getV r = if r = x then b else s.getV r := by
  simp only [State.getV, State.setV]
  by_cases h : r = x
  · simp [h]
  · rw [if_neg h]
    exact Vector.getElem_set_ne _ _ (fun e => h (Fin.ext e.symm))

@[simp] theorem State.getV_setV_same (s : State) (x : Reg) (b : Byte) :
    (s.setV x b).getV x = b := by
  rw [State.getV_setV, if_pos rfl]

/-- V[r] after VF <- b. -/
theorem State.getV_setVF (s : State) (r : Reg) (b : Byte) :
    (s.setVF b).getV r = if r = flagReg then b else s.getV r :=
  State.getV_setV s flagReg r b

@[simp] theorem State.getV_finish (s : State) (o : PcOutcome) (x : Reg) :
    (s.finish o).getV x = s.getV x := rfl
@[simp] theorem State.getV_raise (s : State) (c : Cause) (a : Nat) (x : Reg) :
    (s.raise c a).getV x = s.getV x := rfl
@[simp] theorem State.getV_keyPolled (s : State) (x : Reg) : s.keyPolled.getV x = s.getV x := rfl
@[simp] theorem State.getV_randomDrawn (s : State) (x : Reg) :
    s.randomDrawn.getV x = s.getV x := rfl
@[simp] theorem State.stackAt_finish (s : State) (o : PcOutcome) (k : Fin 16) :
    (s.finish o).stackAt k = s.stackAt k := rfl

/-- stack[k] after a push (spec/10_state.md R42). -/
theorem State.stackAt_push (s : State) (w : Word) (k : Fin 16) :
    (s.push w).stackAt k = if k = s.sp + 1 then w else s.stackAt k := by
  simp only [State.stackAt, State.push]
  by_cases h : k = s.sp + 1
  · subst h; simp
  · rw [if_neg h]
    exact Vector.getElem_set_ne _ _ (fun e => h (Fin.ext e.symm))

/-- The register k after V[j], V[j + 1], ... took the bytes (spec/43_index_memory.md R227). -/
theorem getElem_setRegsFrom (v : Vector Byte 16) (j : Nat) (bytes : List Byte) (k : Nat)
    (hk : k < 16) :
    (setRegsFrom v j bytes)[k] =
      if h : j ≤ k ∧ k - j < bytes.length then bytes[k - j] else v[k] := by
  induction bytes generalizing v j with
  | nil => simp [setRegsFrom]
  | cons b bs ih =>
    rw [setRegsFrom, ih]
    by_cases hjk : j = k
    · subst hjk
      rw [dif_neg (by omega), dif_pos (by simp)]
      simp
    · by_cases hin : j + 1 ≤ k ∧ k - (j + 1) < bs.length
      · rw [dif_pos hin, dif_pos (by simp only [List.length_cons]; omega)]
        have : k - j = k - (j + 1) + 1 := by omega
        simp [this]
      · rw [dif_neg hin, dif_neg (by simp only [List.length_cons]; omega)]
        exact Vector.getElem_setIfInBounds_ne hk hjk

@[simp] theorem State.length_regsUpTo (s : State) (x : Reg) :
    (s.regsUpTo x).length = x.val + 1 := by
  have := x.isLt
  simp only [State.regsUpTo, List.length_take, Vector.length_toList]
  omega

/-- The k-th byte of V0..V[x] is V[k]. -/
theorem State.getElem_regsUpTo (s : State) (x : Reg) (k : Nat) (hk : k < (s.regsUpTo x).length) :
    (s.regsUpTo x)[k] = s.getV ⟨k, by have := x.isLt; rw [State.length_regsUpTo] at hk; omega⟩ := by
  simp [State.regsUpTo, State.getV]

end Sys2Proof.Machine
end

