-- ==== Sys2Proof/Laws/Exec.lean ====
section
/-! SUPPORT. The shared operations of the meanings and of the step: for each, one lemma that says
everything it can do. -/

namespace Sys2Proof.Machine

/-- A reported address fits FAULT_ADDR's 17 bits (spec/10_state.md R50). -/
theorem toNat_reportedAddr {w : Word} {n a : Nat} (h : firstOutOfRange w.toNat n = some a) :
    (BitVec.ofNat 17 a).toNat = a := by
  have := w.isLt
  obtain ⟨-, -, -, hb⟩ := firstOutOfRange_eq_some.mp h
  have : Config.memSize = 4096 := rfl
  rw [BitVec.toNat_ofNat]
  omega

/-- Fault entry leaves every part but the fault record (spec/60_exceptions.md R261). -/
theorem faultTaken_takeFault (s : State) (c : Cause) (w : Word) {a : Nat}
    (ha : (BitVec.ofNat 17 a).toNat = a) : FaultTaken s (s.takeFault c w a) c w a := by
  refine ⟨rfl, rfl, rfl, rfl, ha, fun p hp => ?_⟩
  cases p <;> first
    | exact absurd (List.mem_singleton.mpr rfl) hp
    | rfl
    | exact fun _ => rfl
    | exact fun _ _ => rfl

/-- A store of bytes at I (FX33, FX55): a fault at the lowest address out of range, or every byte
stored and pc + 2 (spec/20_memory.md R76). -/
theorem State.storeAtI_cases (s : State) (bytes : List Byte) :
    (∃ a, firstOutOfRange s.i.toNat bytes.length = some a ∧
      s.storeAtI bytes = s.raise .storeOutOfRange a) ∨
    ((bytes = [] ∨ s.i.toNat + bytes.length ≤ Config.memSize) ∧
      s.storeAtI bytes =
        State.finish { s with mem := s.mem.writeBytes s.i.toNat bytes } .next) := by
  unfold State.storeAtI State.effectiveAddr
  rw [Nat.add_zero]
  cases h : firstOutOfRange s.i.toNat bytes.length with
  | some a => exact .inl ⟨a, rfl, rfl⟩
  | none =>
    refine .inr ⟨?_, rfl⟩
    rw [firstOutOfRange_eq_none, List.length_eq_zero_iff] at h
    exact h

/-- What DXYN can do (spec/40_display.md R133). -/
theorem execDrw_cases (x y : Reg) (n : Nat) (s : State) :
    (∃ a, firstOutOfRange s.i.toNat n = some a ∧
      execDrw x y n s = .next (s.raise .loadOutOfRange a)) ∨
    ((n = 0 ∨ s.i.toNat + n ≤ Config.memSize) ∧
      execDrw x y n s =
        .next ((s.drawSprite x y (s.mem.readBytes s.i.toNat n)).finish .next)) := by
  unfold execDrw State.effectiveAddr
  rw [Nat.add_zero]
  cases h : firstOutOfRange s.i.toNat n with
  | some a => exact .inl ⟨a, rfl, rfl⟩
  | none => exact .inr ⟨firstOutOfRange_eq_none.mp h, rfl⟩

/-- What 00EE can do (spec/41_control.md R152). -/
theorem execRet_cases (s : State) :
    (s.sp = 0 ∧ execRet s = .next (s.raise .stackUnderflow 0)) ∨
    (s.sp ≠ 0 ∧ execRet s = .next (s.drop.finish (.ret (s.stackAt s.sp)))) := by
  unfold execRet
  by_cases h : s.sp = 0
  · exact .inl ⟨h, if_pos h⟩
  · exact .inr ⟨h, if_neg h⟩

/-- What 2NNN can do (spec/41_control.md R154). -/
theorem execCall_cases (nnn : Word) (s : State) :
    (s.sp.val = 15 ∧ execCall nnn s = .next (s.raise .stackOverflow 0)) ∨
    (s.sp.val < 15 ∧ execCall nnn s = .next ((s.push s.pc).finish (.jump nnn))) := by
  unfold execCall
  have := s.sp.isLt
  by_cases h : s.sp.val = 15
  · exact .inl ⟨h, if_pos h⟩
  · exact .inr ⟨by omega, if_neg h⟩

/-- What FX65 can do (spec/43_index_memory.md R230). -/
theorem execLoadRegs_cases (x : Reg) (s : State) :
    (∃ a, firstOutOfRange s.i.toNat (x.val + 1) = some a ∧
      execLoadRegs x s = .next (s.raise .loadOutOfRange a)) ∨
    (s.i.toNat + (x.val + 1) ≤ Config.memSize ∧
      execLoadRegs x s =
        .next (State.finish
          { s with v := setRegsFrom s.v 0 (s.mem.readBytes s.i.toNat (x.val + 1)) } .next)) := by
  unfold execLoadRegs State.effectiveAddr
  rw [Nat.add_zero]
  cases h : firstOutOfRange s.i.toNat (x.val + 1) with
  | some a => exact .inl ⟨a, rfl, rfl⟩
  | none =>
    have := firstOutOfRange_eq_none.mp h
    exact .inr ⟨by omega, rfl⟩

/-- The parts of the state that a draw writes: the framebuffer and VF. -/
theorem State.drawSprite_eq (s : State) (x y : Reg) (rows : List Byte) :
    s.drawSprite x y rows =
      State.setVF
        { s with
          fb := (Canvas.composeSprite ⟨s.fb, false⟩ (s.getV x).toNat (s.getV y).toNat rows).fb }
        (flagByte
          (Canvas.composeSprite ⟨s.fb, false⟩ (s.getV x).toNat (s.getV y).toNat rows).hit) :=
  rfl

/-- What a core step can do (spec/30_encoding.md R120): nothing when halted; a fetch fault; an
unknown opcode; or the one form that the fetched word selects. -/
theorem coreStep_cases (s : State) :
    (s.halted = true ∧ coreStep s = .next s) ∨
    (s.halted = false ∧ ∃ a, firstOutOfRange s.pc.toNat 2 = some a ∧
      coreStep s = .next (s.raiseFetch a)) ∨
    (s.halted = false ∧ s.pc.toNat + 2 ≤ Config.memSize ∧
      ((∃ r, decodeWord s.fetchWord = .error r ∧
          coreStep s = .next ((s.latch s.fetchWord).raise .unknownOpcode 0)) ∨
        ∃ i, decodeWord s.fetchWord = .ok i ∧ coreStep s = exec i (s.latch s.fetchWord))) := by
  unfold coreStep State.fetchOutOfRange State.runWord
  cases hh : s.halted with
  | true => exact .inl ⟨rfl, rfl⟩
  | false =>
    refine .inr ?_
    cases hf : firstOutOfRange s.pc.toNat 2 with
    | some a => exact .inl ⟨rfl, a, rfl, rfl⟩
    | none =>
      have := firstOutOfRange_eq_none.mp hf
      refine .inr ⟨rfl, by omega, ?_⟩
      cases hd : decodeWord s.fetchWord with
      | error r => exact .inl ⟨r, rfl, rfl⟩
      | ok i => exact .inr ⟨i, rfl, rfl⟩

/-- A halted core step changes nothing (spec/60_exceptions.md R262). -/
theorem coreStep_halted {s : State} (h : s.halted = true) : coreStep s = .next s := by
  unfold coreStep
  rw [if_pos h]

/-- A core step whose fetch is in range runs the fetched word (spec/30_encoding.md R120). -/
theorem coreStep_runWord {s : State} (h : s.halted = false)
    (hpc : s.pc.toNat + 2 ≤ Config.memSize) : coreStep s = s.runWord s.fetchWord := by
  have hf : s.fetchOutOfRange = none := firstOutOfRange_eq_none.mpr (.inr hpc)
  unfold coreStep
  rw [if_neg (by simp [h]), hf]

/-- What exec can do to the fault record, the opcode register and memory's form: one of the four
faults of a form of its own (spec/60_exceptions.md R260), or none of them. -/
theorem exec_cases (i : Instr) (s t : State) (h : exec i s = .next t) :
    (i = .ret ∧ t = s.raise .stackUnderflow 0) ∨
    ((∃ nnn, i = .call nnn) ∧ t = s.raise .stackOverflow 0) ∨
    (((∃ x y n, i = .drw x y n) ∨ ∃ x, i = .loadRegs x) ∧
      ∃ a n, firstOutOfRange s.i.toNat n = some a ∧ t = s.raise .loadOutOfRange a) ∨
    (((∃ x, i = .bcd x) ∨ ∃ x, i = .storeRegs x) ∧
      ∃ a n, firstOutOfRange s.i.toNat n = some a ∧ t = s.raise .storeOutOfRange a) ∨
    (t.fault = s.fault ∧ t.opcode = s.opcode ∧ (s.mem.wf = true → t.mem.wf = true)) := by
  cases i
  case ret =>
    change execRet s = .next t at h
    rcases execRet_cases s with ⟨_, h'⟩ | ⟨_, h'⟩ <;> rw [h'] at h <;> cases h
    · exact .inl ⟨rfl, rfl⟩
    · exact .inr (.inr (.inr (.inr ⟨rfl, rfl, id⟩)))
  case call nnn =>
    change execCall nnn s = .next t at h
    rcases execCall_cases nnn s with ⟨_, h'⟩ | ⟨_, h'⟩ <;> rw [h'] at h <;> cases h
    · exact .inr (.inl ⟨⟨nnn, rfl⟩, rfl⟩)
    · exact .inr (.inr (.inr (.inr ⟨rfl, rfl, id⟩)))
  case drw x y n =>
    change execDrw x y n s = .next t at h
    rcases execDrw_cases x y n s with ⟨a, ha, h'⟩ | ⟨_, h'⟩ <;> rw [h'] at h <;> cases h
    · exact .inr (.inr (.inl ⟨.inl ⟨x, y, n, rfl⟩, a, n, ha, rfl⟩))
    · exact .inr (.inr (.inr (.inr ⟨rfl, rfl, id⟩)))
  case loadRegs x =>
    change execLoadRegs x s = .next t at h
    rcases execLoadRegs_cases x s with ⟨a, ha, h'⟩ | ⟨_, h'⟩ <;> rw [h'] at h <;> cases h
    · exact .inr (.inr (.inl ⟨.inr ⟨x, rfl⟩, a, _, ha, rfl⟩))
    · exact .inr (.inr (.inr (.inr ⟨rfl, rfl, id⟩)))
  case bcd x =>
    cases h
    rcases s.storeAtI_cases (decimalDigits (s.getV x)) with ⟨a, ha, h'⟩ | ⟨hl, h'⟩ <;> rw [h']
    · exact .inr (.inr (.inr (.inl ⟨.inl ⟨x, rfl⟩, a, _, ha, rfl⟩)))
    · exact .inr (.inr (.inr (.inr ⟨rfl, rfl, fun hw => Memory.wf_writeBytes hw hl⟩)))
  case storeRegs x =>
    cases h
    rcases s.storeAtI_cases (s.regsUpTo x) with ⟨a, ha, h'⟩ | ⟨hl, h'⟩ <;> rw [h']
    · exact .inr (.inr (.inr (.inl ⟨.inr ⟨x, rfl⟩, a, _, ha, rfl⟩)))
    · exact .inr (.inr (.inr (.inr ⟨rfl, rfl, fun hw => Memory.wf_writeBytes hw hl⟩)))
  case waitKey x =>
    cases h
    cases s.keyAnswer <;> exact .inr (.inr (.inr (.inr ⟨rfl, rfl, id⟩)))
  all_goals (cases h; exact .inr (.inr (.inr (.inr ⟨rfl, rfl, id⟩))))

/-- What a host change can do: it happens when it is legal and the port is open (spec/20_memory.md R85;
log 16). -/
theorem State.hostChange_next {s t t' : State} {port : HaltedPort} {legal : Bool} {illegal : Refusal}
    (h : s.hostChange port legal illegal t = .next t') :
    legal = true ∧ s.portOpen port = true ∧ t' = t := by
  unfold State.hostChange at h
  split at h
  · split at h
    · cases h; exact ⟨‹_›, ‹_›, rfl⟩
    · cases h
  · cases h

/-- When the port is open: the core runs, or the halted port takes writes (log 16). -/
theorem State.portOpen_iff {s : State} {port : HaltedPort} :
    s.portOpen port = true ↔ s.halted = false ∨ port = .takesWrites := by
  simp [State.portOpen]

/-- The port that refuses writes is closed in the halted core (spec/60_exceptions.md R278). -/
theorem State.portOpen_refusesWrites {s : State} (h : s.halted = true) :
    s.portOpen .refusesWrites = false := by
  simp [State.portOpen, h]

/-- A legal host change happens when the port is open. -/
theorem State.hostChange_open {s : State} {port : HaltedPort} (illegal : Refusal) (t : State)
    (h : s.portOpen port = true) : s.hostChange port true illegal t = .next t := by
  simp [State.hostChange, h]

/-- A legal host change is refused when the port is not open. -/
theorem State.hostChange_closed {s : State} {port : HaltedPort} (illegal : Refusal) (t : State)
    (h : s.portOpen port = false) : s.hostChange port true illegal t = .refused .coreHalted := by
  simp [State.hostChange, h]

/-- A host change that is not legal is refused, in every state. -/
@[simp] theorem State.hostChange_illegal (s : State) (port : HaltedPort) (illegal : Refusal)
    (t : State) : s.hostChange port false illegal t = .refused illegal := rfl

/-- A program load is done or refused (spec/20_memory.md R84). -/
theorem loadProgram_next {s t : State} {port : HaltedPort} {program : List Byte}
    (h : s.loadProgram port program = .next t) :
    Config.progBase + program.length ≤ Config.memSize ∧ s.portOpen port = true ∧
      t = { s with mem := s.mem.writeBytes Config.progBase program } := by
  obtain ⟨hl, hh, rfl⟩ := State.hostChange_next h
  exact ⟨of_decide_eq_true hl, hh, rfl⟩

/-- A host action other than reset that happens finds the port open and leaves the fault record
(spec/20_memory.md R85). -/
theorem hostAct_next {s t : State} {port : HaltedPort} {a : HostAction} (ha : a ≠ .reset)
    (h : hostAct port a s = .next t) : s.portOpen port = true ∧ t.fault = s.fault := by
  cases a with
  | reset => exact absurd rfl ha
  | writeFault f => cases h
  | _ =>
    obtain ⟨-, ho, rfl⟩ := State.hostChange_next h
    exact ⟨ho, rfl⟩

end Sys2Proof.Machine
end

