-- ==== Sys2Proof/Laws/Flags.lean ====
section
/-! SUPPORT. The flag values and the operand forms as numbers (spec/42_alu.md R191 to R195,
spec/43_index_memory.md R224, R225). -/

namespace Sys2Proof.Machine

/-- The carry is 1 exactly when the sum exceeds 255 (R191). -/
theorem carryOfAdd_eq (a b : Byte) :
    carryOfAdd a b = if a.toNat + b.toNat > 255 then 1 else 0 := by
  have := a.isLt; have := b.isLt
  unfold carryOfAdd flagByte
  by_cases h : a.toNat + b.toNat > 255
  · rw [if_pos h, if_pos (by simp only [decide_eq_true_eq]; omega)]
  · rw [if_neg h, if_neg (by simp only [decide_eq_true_eq]; omega)]

/-- The flag of a subtraction is 1 exactly when it does not borrow (R192, R194). -/
theorem notBorrow_eq (a b : Byte) : notBorrow a b = if a.toNat ≥ b.toNat then 1 else 0 := by
  unfold notBorrow
  by_cases h : a.toNat ≥ b.toNat
  · rw [if_pos h, if_neg (by omega)]
  · rw [if_neg h, if_pos (by omega)]

/-- Bit 0 (R193). -/
theorem toNat_shiftedOutRight : ∀ a : Byte, (shiftedOutRight a).toNat = a.toNat % 2 := by decide

/-- Bit 7 (R195). -/
theorem toNat_shiftedOutLeft : ∀ a : Byte, (shiftedOutLeft a).toNat = a.toNat / 128 := by decide

/-- 5 * V[x] fits 16 bits (R224). -/
theorem toNat_glyphAddr (b : Byte) : (glyphAddr b).toNat = 5 * b.toNat := by
  have := b.isLt
  simp only [glyphAddr, zext16, BitVec.toNat_mul, BitVec.toNat_setWidth,
    show (5 : Word).toNat = 5 from rfl]
  omega

@[simp] theorem length_decimalDigits (b : Byte) : (decimalDigits b).length = 3 := rfl

/-- A key answer matches a byte when it is the key code the byte names (spec/44_input_timer.md
R241). -/
theorem keyMatches_iff (answer : Option Key) (b : Byte) :
    keyMatches answer b = true ↔ ∃ k, answer = some k ∧ k.toNat = b.toNat := by
  cases answer with
  | none => simp [keyMatches]
  | some k =>
    have := k.isLt
    have hk : (byteOfKey k).toNat = k.toNat := by
      rw [byteOfKey, BitVec.toNat_setWidth, Nat.mod_eq_of_lt (by omega)]
    simp only [keyMatches, decide_eq_true_eq, Option.some_inj, exists_eq_left']
    simp only [← BitVec.toNat_inj, hk]

end Sys2Proof.Machine
end

