-- ==== Sys2Proof/Laws/Framebuffer.lean ====
section
/-! SUPPORT. The framebuffer: one pixel after one write, and after one composed sprite pixel
(spec/40_display.md R131 to R133). -/

namespace Sys2Proof.Machine

/-- FB[r][c] after FB[r'][c'] <- b. -/
theorem Frame.pixel_setPixel (fb : Frame) (r r' : Fin 32) (c c' : Fin 64) (b : Bool) :
    (fb.setPixel r' c' b).pixel r c = if r = r' ∧ c = c' then b else fb.pixel r c := by
  simp only [Frame.pixel, Frame.setPixel]
  by_cases hr : r = r'
  · subst hr
    by_cases hc : c = c'
    · subst hc; simp
    · have : c'.val ≠ c.val := fun e => hc (Fin.ext e.symm)
      simp [hc, Vector.getElem_set_ne, this]
  · have : r'.val ≠ r.val := fun e => hr (Fin.ext e.symm)
    simp [hr, Vector.getElem_set_ne, this]

@[simp] theorem Frame.pixel_clear (r : Fin 32) (c : Fin 64) : Frame.clear.pixel r c = false := by
  simp [Frame.pixel, Frame.clear]

/-- A pixel after one composed sprite pixel. -/
theorem Canvas.pixel_compose (d : Canvas) (bit : Bool) (r r' : Fin 32) (c c' : Fin 64) :
    (d.compose bit r' c').fb.pixel r c =
      ((d.fb.pixel r c) ^^ (bit && decide (r = r' ∧ c = c'))) := by
  unfold Canvas.compose
  cases bit with
  | false => simp
  | true =>
    rw [if_pos rfl, Frame.pixel_setPixel]
    by_cases h : r = r' ∧ c = c'
    · obtain ⟨rfl, rfl⟩ := h; simp
    · simp [h]

/-- The hit after one composed sprite pixel. -/
theorem Canvas.hit_compose (d : Canvas) (bit : Bool) (r : Fin 32) (c : Fin 64) :
    (d.compose bit r c).hit = (d.hit || (bit && d.fb.pixel r c)) := by
  unfold Canvas.compose
  cases bit <;> simp

/-! ## One sprite row

A row of at most 64 pixels falls on distinct columns, so each pixel is composed at most once. -/

/-- A set bit of the pixels j..j + n - 1 of a sprite row falls on column c. -/
def RowCovers (x0 : Nat) (b : Byte) (j n : Nat) (c : Fin 64) : Prop :=
  ∃ k, j ≤ k ∧ k < j + n ∧ c = wrapCol (x0 + k) ∧ spriteBit b k = true

theorem RowCovers_succ {x0 : Nat} {b : Byte} {j n : Nat} {c : Fin 64} :
    RowCovers x0 b j (n + 1) c ↔
      (c = wrapCol (x0 + j) ∧ spriteBit b j = true) ∨ RowCovers x0 b (j + 1) n c := by
  constructor
  · rintro ⟨k, h1, h2, h3, h4⟩
    by_cases hk : k = j
    · subst hk; exact .inl ⟨h3, h4⟩
    · exact .inr ⟨k, by omega, by omega, h3, h4⟩
  · rintro (⟨h3, h4⟩ | ⟨k, h1, h2, h3, h4⟩)
    · exact ⟨j, by omega, by omega, h3, h4⟩
    · exact ⟨k, by omega, by omega, h3, h4⟩

theorem not_RowCovers_of_first {x0 : Nat} {b : Byte} {j n : Nat} (hn : n < 64) :
    ¬ RowCovers x0 b (j + 1) n (wrapCol (x0 + j)) := by
  rintro ⟨k, h1, h2, h3, -⟩
  have : (x0 + j) % 64 = (x0 + k) % 64 := congrArg Fin.val h3
  omega

/-- A pixel after a sprite row is flipped exactly where the row covers it (R131 to R133). -/
theorem Canvas.pixel_composeRow (d : Canvas) (r r' : Fin 32) (c : Fin 64) (x0 : Nat) (b : Byte)
    (j n : Nat) (hn : n ≤ 64) :
    (d.composeRow r' x0 b j n).fb.pixel r c = true ↔
      (d.fb.pixel r c = true ↔ ¬ (r = r' ∧ RowCovers x0 b j n c)) := by
  induction n generalizing d j with
  | zero =>
    have : ¬ RowCovers x0 b j 0 c := fun ⟨k, h1, h2, _⟩ => by omega
    simp [Canvas.composeRow, this]
  | succ n ih =>
    rw [Canvas.composeRow, ih _ _ (by omega), Canvas.pixel_compose, RowCovers_succ]
    by_cases hr : r = r'
    · by_cases hc : c = wrapCol (x0 + j)
      · subst hc
        have := not_RowCovers_of_first (x0 := x0) (b := b) (j := j) (show n < 64 by omega)
        cases spriteBit b j <;> cases d.fb.pixel r (wrapCol (x0 + j)) <;> simp [hr, this]
      · simp [hr, hc]
    · simp [hr]

/-- The hit after a sprite row: the hit before, or a covered pixel that was 1 (R133). -/
theorem Canvas.hit_composeRow (d : Canvas) (r : Fin 32) (x0 : Nat) (b : Byte) (j n : Nat)
    (hn : n ≤ 64) :
    (d.composeRow r x0 b j n).hit = true ↔
      d.hit = true ∨ ∃ c, RowCovers x0 b j n c ∧ d.fb.pixel r c = true := by
  induction n generalizing d j with
  | zero =>
    have : ∀ c, ¬ RowCovers x0 b j 0 c := fun c ⟨k, h1, h2, _⟩ => by omega
    simp [Canvas.composeRow, this]
  | succ n ih =>
    rw [Canvas.composeRow, ih _ _ (by omega), Canvas.hit_compose]
    have hfirst := not_RowCovers_of_first (x0 := x0) (b := b) (j := j) (show n < 64 by omega)
    have hrest : ∀ c, RowCovers x0 b (j + 1) n c →
        (d.compose (spriteBit b j) r (wrapCol (x0 + j))).fb.pixel r c = d.fb.pixel r c := by
      intro c hc
      have hne : c ≠ wrapCol (x0 + j) := fun e => hfirst (e ▸ hc)
      rw [Canvas.pixel_compose]
      simp [hne]
    constructor
    · rintro (h | ⟨c, hc, hp⟩)
      · rcases Bool.or_eq_true_iff.mp h with h | h
        · exact .inl h
        · rw [Bool.and_eq_true] at h
          exact .inr ⟨_, RowCovers_succ.mpr (.inl ⟨rfl, h.1⟩), h.2⟩
      · exact .inr ⟨c, RowCovers_succ.mpr (.inr hc), by rwa [hrest c hc] at hp⟩
    · rintro (h | ⟨c, hc, hp⟩)
      · exact .inl (by simp [h])
      · rcases RowCovers_succ.mp hc with ⟨rfl, hb⟩ | hc
        · exact .inl (by simp [hb, hp])
        · exact .inr ⟨c, hc, by rwa [hrest c hc]⟩

/-! ## A whole sprite

A sprite of at most 32 rows falls on distinct framebuffer rows. -/

/-- A set bit of the sprite's rows, the first at row y, falls on pixel (r, c). -/
def SpriteCovers (x0 y : Nat) (rows : List Byte) (r : Fin 32) (c : Fin 64) : Prop :=
  ∃ (k : Nat) (hk : k < rows.length), r = wrapRow (y + k) ∧ RowCovers x0 rows[k] 0 8 c

theorem SpriteCovers_cons {x0 y : Nat} {b : Byte} {rows : List Byte} {r : Fin 32} {c : Fin 64} :
    SpriteCovers x0 y (b :: rows) r c ↔
      (r = wrapRow y ∧ RowCovers x0 b 0 8 c) ∨ SpriteCovers x0 (y + 1) rows r c := by
  constructor
  · rintro ⟨k, hk, hr, hc⟩
    cases k with
    | zero => exact .inl ⟨hr, hc⟩
    | succ k =>
      refine .inr ⟨k, by simpa using hk, ?_, hc⟩
      rw [hr, show y + (k + 1) = y + 1 + k by omega]
  · rintro (⟨hr, hc⟩ | ⟨k, hk, hr, hc⟩)
    · exact ⟨0, by simp, hr, hc⟩
    · refine ⟨k + 1, by simpa using hk, ?_, hc⟩
      rw [hr, show y + (k + 1) = y + 1 + k by omega]

theorem not_SpriteCovers_of_first {x0 y : Nat} {rows : List Byte} {c : Fin 64}
    (hlen : rows.length < 32) : ¬ SpriteCovers x0 (y + 1) rows (wrapRow y) c := by
  rintro ⟨k, hk, hr, -⟩
  have : y % 32 = (y + 1 + k) % 32 := congrArg Fin.val hr
  omega

/-- A pixel after a sprite is flipped exactly where the sprite covers it (R131 to R133, R135). -/
theorem Canvas.pixel_composeSprite (d : Canvas) (x0 y : Nat) (rows : List Byte) (r : Fin 32)
    (c : Fin 64) (hlen : rows.length ≤ 32) :
    (d.composeSprite x0 y rows).fb.pixel r c = true ↔
      (d.fb.pixel r c = true ↔ ¬ SpriteCovers x0 y rows r c) := by
  induction rows generalizing d y with
  | nil =>
    have : ¬ SpriteCovers x0 y [] r c := fun ⟨k, hk, _⟩ => by simp at hk
    simp [Canvas.composeSprite, this]
  | cons b rows ih =>
    rw [List.length_cons] at hlen
    rw [Canvas.composeSprite, ih _ _ (by omega), Canvas.pixel_composeRow _ _ _ _ _ _ _ _ (by omega),
      SpriteCovers_cons]
    by_cases hr : r = wrapRow y
    · subst hr
      have := not_SpriteCovers_of_first (x0 := x0) (y := y) (c := c)
        (show rows.length < 32 by omega)
      simp only [this, or_false]
      tauto
    · simp only [hr, false_and, false_or]
      tauto

/-- The hit after a sprite: the hit before, or a covered pixel that was 1 (R133). -/
theorem Canvas.hit_composeSprite (d : Canvas) (x0 y : Nat) (rows : List Byte)
    (hlen : rows.length ≤ 32) :
    (d.composeSprite x0 y rows).hit = true ↔
      d.hit = true ∨ ∃ r c, SpriteCovers x0 y rows r c ∧ d.fb.pixel r c = true := by
  induction rows generalizing d y with
  | nil =>
    have : ∀ r c, ¬ SpriteCovers x0 y [] r c := fun r c ⟨k, hk, _⟩ => by simp at hk
    simp [Canvas.composeSprite, this]
  | cons b rows ih =>
    rw [List.length_cons] at hlen
    rw [Canvas.composeSprite, ih _ _ (by omega), Canvas.hit_composeRow _ _ _ _ _ _ (by omega)]
    have hrest : ∀ r c, SpriteCovers x0 (y + 1) rows r c →
        ((d.composeRow (wrapRow y) x0 b 0 8).fb.pixel r c = true ↔ d.fb.pixel r c = true) := by
      intro r c hc
      have hne : r ≠ wrapRow y := fun e =>
        not_SpriteCovers_of_first (show rows.length < 32 by omega) (e ▸ hc)
      rw [Canvas.pixel_composeRow _ _ _ _ _ _ _ _ (by omega)]
      simp [hne]
    constructor
    · rintro ((h | ⟨c, hc, hp⟩) | ⟨r, c, hc, hp⟩)
      · exact .inl h
      · exact .inr ⟨_, c, SpriteCovers_cons.mpr (.inl ⟨rfl, hc⟩), hp⟩
      · exact .inr ⟨r, c, SpriteCovers_cons.mpr (.inr hc), (hrest r c hc).mp hp⟩
    · rintro (h | ⟨r, c, hc, hp⟩)
      · exact .inl (.inl h)
      · rcases SpriteCovers_cons.mp hc with ⟨rfl, hb⟩ | hc
        · exact .inl (.inr ⟨c, hb, hp⟩)
        · exact .inr ⟨r, c, hc, (hrest r c hc).mpr hp⟩

end Sys2Proof.Machine
end

