-- ==== Sys2Proof/Laws/PerInstr.lean ====
section
/-! SUPPORT. A law of every instruction as syntax: the word that the encoder writes carries the fixed
bits of its form, the mask and match columns of spec/30_encoding.md R106. -/

namespace Sys2Proof

theorem addrWord_and (op : BitVec 4) (nnn : Word) :
    addrWord op nnn &&& 0xF000 = addrWord op 0 := by
  show ((op ++ nnn.setWidth 12 : BitVec (4 + 12)) &&& (0xF#4 ++ 0#12)) = _
  rw [BitVec.and_append, show (0xF#4) = BitVec.allOnes 4 from rfl, BitVec.and_allOnes,
    BitVec.and_zero]
  rfl

theorem regByteWord_and_op (op : BitVec 4) (x : Reg) (nn : Byte) :
    regByteWord op x nn &&& 0xF000 = regByteWord op 0 0 := by
  show ((op ++ bitsOfReg x ++ nn : BitVec (4 + 4 + 8)) &&& (0xF#4 ++ 0#4 ++ 0#8)) = _
  rw [BitVec.and_append, BitVec.and_append, show (0xF#4) = BitVec.allOnes 4 from rfl,
    BitVec.and_allOnes, BitVec.and_zero, BitVec.and_zero]
  rfl

theorem regByteWord_and_sub (op : BitVec 4) (x : Reg) (nn : Byte) :
    regByteWord op x nn &&& 0xF0FF = regByteWord op 0 nn := by
  show ((op ++ bitsOfReg x ++ nn : BitVec (4 + 4 + 8)) &&& (0xF#4 ++ 0#4 ++ 0xFF#8)) = _
  rw [BitVec.and_append, BitVec.and_append, show (0xF#4) = BitVec.allOnes 4 from rfl,
    show (0xFF#8) = BitVec.allOnes 8 from rfl, BitVec.and_allOnes, BitVec.and_allOnes,
    BitVec.and_zero]
  rfl

theorem regRegWord_and_sub (op n : BitVec 4) (x y : Reg) :
    regRegWord op x y n &&& 0xF00F = regRegWord op 0 0 n := by
  show ((op ++ bitsOfReg x ++ bitsOfReg y ++ n : BitVec (4 + 4 + 4 + 4)) &&&
    (0xF#4 ++ 0#4 ++ 0#4 ++ 0xF#4)) = _
  rw [BitVec.and_append, BitVec.and_append, BitVec.and_append,
    show (0xF#4) = BitVec.allOnes 4 from rfl, BitVec.and_allOnes, BitVec.and_allOnes,
    BitVec.and_zero, BitVec.and_zero]
  rfl

theorem regRegWord_and_op (op n : BitVec 4) (x y : Reg) :
    regRegWord op x y n &&& 0xF000 = regRegWord op 0 0 0 := by
  show ((op ++ bitsOfReg x ++ bitsOfReg y ++ n : BitVec (4 + 4 + 4 + 4)) &&&
    (0xF#4 ++ 0#4 ++ 0#4 ++ 0#4)) = _
  rw [BitVec.and_append, BitVec.and_append, BitVec.and_append,
    show (0xF#4) = BitVec.allOnes 4 from rfl, BitVec.and_allOnes, BitVec.and_zero,
    BitVec.and_zero, BitVec.and_zero]
  rfl

namespace Laws.EncodesForm

/-- The encoder's word for i has the fixed bits of i's form (R106). -/
def Statement (i : Instr) : Prop := encode i &&& formMask i = formMatch i

theorem cls : Statement .cls := rfl
theorem ret : Statement .ret := rfl
theorem jp (nnn : Word) : Statement (.jp nnn) := addrWord_and 0x1 nnn
theorem call (nnn : Word) : Statement (.call nnn) := addrWord_and 0x2 nnn
theorem seImm (x : Reg) (nn : Byte) : Statement (.seImm x nn) := regByteWord_and_op 0x3 x nn
theorem sneImm (x : Reg) (nn : Byte) : Statement (.sneImm x nn) := regByteWord_and_op 0x4 x nn
theorem seReg (x y : Reg) : Statement (.seReg x y) := regRegWord_and_sub 0x5 0x0 x y
theorem ldImm (x : Reg) (nn : Byte) : Statement (.ldImm x nn) := regByteWord_and_op 0x6 x nn
theorem addImm (x : Reg) (nn : Byte) : Statement (.addImm x nn) := regByteWord_and_op 0x7 x nn
theorem ldReg (x y : Reg) : Statement (.ldReg x y) := regRegWord_and_sub 0x8 0x0 x y
theorem orReg (x y : Reg) : Statement (.orReg x y) := regRegWord_and_sub 0x8 0x1 x y
theorem andReg (x y : Reg) : Statement (.andReg x y) := regRegWord_and_sub 0x8 0x2 x y
theorem xorReg (x y : Reg) : Statement (.xorReg x y) := regRegWord_and_sub 0x8 0x3 x y
theorem addReg (x y : Reg) : Statement (.addReg x y) := regRegWord_and_sub 0x8 0x4 x y
theorem subReg (x y : Reg) : Statement (.subReg x y) := regRegWord_and_sub 0x8 0x5 x y
theorem shr (x y : Reg) : Statement (.shr x y) := regRegWord_and_sub 0x8 0x6 x y
theorem subnReg (x y : Reg) : Statement (.subnReg x y) := regRegWord_and_sub 0x8 0x7 x y
theorem shl (x y : Reg) : Statement (.shl x y) := regRegWord_and_sub 0x8 0xE x y
theorem sneReg (x y : Reg) : Statement (.sneReg x y) := regRegWord_and_sub 0x9 0x0 x y
theorem ldI (nnn : Word) : Statement (.ldI nnn) := addrWord_and 0xA nnn
theorem jpV0 (nnn : Word) : Statement (.jpV0 nnn) := addrWord_and 0xB nnn
theorem rnd (x : Reg) (nn : Byte) : Statement (.rnd x nn) := regByteWord_and_op 0xC x nn
theorem drw (x y : Reg) (n : Nat) : Statement (.drw x y n) := regRegWord_and_op 0xD _ x y
theorem skp (x : Reg) : Statement (.skp x) := regByteWord_and_sub 0xE x 0x9E
theorem sknp (x : Reg) : Statement (.sknp x) := regByteWord_and_sub 0xE x 0xA1
theorem ldRegDt (x : Reg) : Statement (.ldRegDt x) := regByteWord_and_sub 0xF x 0x07
theorem waitKey (x : Reg) : Statement (.waitKey x) := regByteWord_and_sub 0xF x 0x0A
theorem ldDtReg (x : Reg) : Statement (.ldDtReg x) := regByteWord_and_sub 0xF x 0x15
theorem ldStReg (x : Reg) : Statement (.ldStReg x) := regByteWord_and_sub 0xF x 0x18
theorem addI (x : Reg) : Statement (.addI x) := regByteWord_and_sub 0xF x 0x1E
theorem ldGlyph (x : Reg) : Statement (.ldGlyph x) := regByteWord_and_sub 0xF x 0x29
theorem bcd (x : Reg) : Statement (.bcd x) := regByteWord_and_sub 0xF x 0x33
theorem storeRegs (x : Reg) : Statement (.storeRegs x) := regByteWord_and_sub 0xF x 0x55
theorem loadRegs (x : Reg) : Statement (.loadRegs x) := regByteWord_and_sub 0xF x 0x65

end Laws.EncodesForm

end Sys2Proof
end

