-- ==== Sys2Proof/Tests/Slice0.lean ====
section
/-! SUPPORT. The model's own tests: ill-formed terms refused, words written out from the encodings of
spec/30_encoding.md R102 and R106, single steps from the vectors of spec/95_test_vectors.md, and for
every statement with hypotheses a witness that meets them. No expected value comes from the model. -/

namespace Sys2Proof.Tests

open Sys2Proof Sys2Proof.Machine

/-! ## WellFormed refuses an ill-formed term of each check -/

theorem test_wellFormed_jp : Instr.wellFormed (.jp 0x1000) = false := by decide
theorem test_wellFormed_call : Instr.wellFormed (.call 0x1000) = false := by decide
theorem test_wellFormed_ldI : Instr.wellFormed (.ldI 0xFFFF) = false := by decide
theorem test_wellFormed_jpV0 : Instr.wellFormed (.jpV0 0x1000) = false := by decide
theorem test_wellFormed_drw : Instr.wellFormed (.drw 0 0 16) = false := by decide

/-! ## Decoding: one word per form, in the fields OP, X, Y, N of R101 -/

theorem test_decode_display :
    decodeWord 0b0000000011100000#16 = .ok .cls ∧
    decodeWord 0b1101101010110101#16 = .ok (.drw 0xA 0xB 5) := by decide

theorem test_decode_control :
    decodeWord 0b0000000011101110#16 = .ok .ret ∧
    decodeWord 0b0001010000010001#16 = .ok (.jp 0x411) ∧
    decodeWord 0b0010001100000000#16 = .ok (.call 0x300) ∧
    decodeWord 0b0011100001010101#16 = .ok (.seImm 8 0x55) ∧
    decodeWord 0b0100001000010000#16 = .ok (.sneImm 2 0x10) ∧
    decodeWord 0b0101010101100000#16 = .ok (.seReg 5 6) ∧
    decodeWord 0b1001010101100000#16 = .ok (.sneReg 5 6) ∧
    decodeWord 0b1011111100000001#16 = .ok (.jpV0 0xF01) := by decide

theorem test_decode_alu_immediate :
    decodeWord 0b0110101000111110#16 = .ok (.ldImm 0xA 0x3E) ∧
    decodeWord 0b0111000000000010#16 = .ok (.addImm 0 0x02) ∧
    decodeWord 0b1100000000001111#16 = .ok (.rnd 0 0x0F) := by decide

theorem test_decode_alu_register :
    decodeWord 0b1000001101000000#16 = .ok (.ldReg 3 4) ∧
    decodeWord 0b1000001101000001#16 = .ok (.orReg 3 4) ∧
    decodeWord 0b1000001101000010#16 = .ok (.andReg 3 4) ∧
    decodeWord 0b1000001101000011#16 = .ok (.xorReg 3 4) ∧
    decodeWord 0b1000100101110100#16 = .ok (.addReg 9 7) ∧
    decodeWord 0b1000100101110101#16 = .ok (.subReg 9 7) ∧
    decodeWord 0b1000101010110110#16 = .ok (.shr 0xA 0xB) ∧
    decodeWord 0b1000111100010111#16 = .ok (.subnReg 0xF 1) ∧
    decodeWord 0b1000111100001110#16 = .ok (.shl 0xF 0) := by decide

theorem test_decode_index_memory :
    decodeWord 0b1010000010011100#16 = .ok (.ldI 0x09C) ∧
    decodeWord 0b1111001100011110#16 = .ok (.addI 3) ∧
    decodeWord 0b1111110000101001#16 = .ok (.ldGlyph 0xC) ∧
    decodeWord 0b1111010000110011#16 = .ok (.bcd 4) ∧
    decodeWord 0b1111000101010101#16 = .ok (.storeRegs 1) ∧
    decodeWord 0b1111001001100101#16 = .ok (.loadRegs 2) := by decide

theorem test_decode_input_timers :
    decodeWord 0b1110001110011110#16 = .ok (.skp 3) ∧
    decodeWord 0b1110001110100001#16 = .ok (.sknp 3) ∧
    decodeWord 0b1111010100000111#16 = .ok (.ldRegDt 5) ∧
    decodeWord 0b1111001100001010#16 = .ok (.waitKey 3) ∧
    decodeWord 0b1111000000010101#16 = .ok (.ldDtReg 0) ∧
    decodeWord 0b1111000100011000#16 = .ok (.ldStReg 1) := by decide

/-- V-ENC-1 to V-ENC-7: words that select no form. -/
theorem test_decode_unknown :
    decodeWord 0x0000 = .error (.unknownOpcode 0x0000) ∧
    decodeWord 0x00E1 = .error (.unknownOpcode 0x00E1) ∧
    decodeWord 0x800F = .error (.unknownOpcode 0x800F) ∧
    decodeWord 0xE0A2 = .error (.unknownOpcode 0xE0A2) ∧
    decodeWord 0xF019 = .error (.unknownOpcode 0xF019) ∧
    decodeWord 0xFFFF = .error (.unknownOpcode 0xFFFF) := by decide

/-- Bytes: high byte first, the rest returned, a lone byte refused by name (R100). -/
theorem test_decode_bytes :
    decode [0x14, 0x11, 0x00] = .ok (.jp 0x411, [0x00]) ∧ decode [0x14] = .error .truncated := by
  decide

theorem test_decodeTableWord :
    decodeTableWord 16 0xD115 = some (.drw 1 1 5) ∧ decodeTableWord 16 0x5121 = none := by decide

/-! ## Single steps (spec/95_test_vectors.md) -/

/-- Reset, with no tick in the gap before the next step. -/
def start : State := { State.reset with gaps := ⟨[⟨0, 0⟩], 0⟩ }

/-- The state after one step. -/
def stepped (s : State) : State :=
  match step s with
  | .next t => t
  | .fault _ | .refused _ => s

/-- The state after one step that runs the word w at 0x200. -/
def run (w : Nat) (s : State) : State := stepped (s.withFetchWord 16 w)

/-- The memory cells at a, a + 1, ... set to the bytes. -/
def poked (a : Nat) (bytes : List Byte) (s : State) : State :=
  { s with mem := s.mem.writeBytes a bytes }

/-- The columns of a row that hold 1. -/
def litColumns (s : State) (r : Fin 32) : List (Fin 64) :=
  (List.finRange 64).filter fun c => s.fb.pixel r c

/-- V-DXY-1. -/
theorem test_cls :
    let t := run 0x00E0 ({ start with fb := start.fb.setPixel 0 0 true }.setVF 1)
    t.fb.pixel 0 0 = false ∧ t.getV 0xF = 1 ∧ t.pc = 0x202 := by decide

/-- V-SRC-6, the first draw: the glyph of 0. -/
theorem test_drw_glyph :
    let t := run 0xD115 start
    litColumns t 0 = [0, 1, 2, 3] ∧ litColumns t 1 = [0, 3] ∧ litColumns t 5 = [] ∧
      t.getV 0xF = 0 ∧ t.pc = 0x202 := by decide

/-- V-DXY-6 at the columns of V-DXY-4: Y = F draws at the old VF, and a row wraps at column 63. -/
theorem test_drw_wraps :
    let t := run 0xD0F1 (poked 0x300 [0xFF] ((({ start with i := 0x300 }).setV 0 62).setVF 5))
    litColumns t 5 = [0, 1, 2, 3, 4, 5, 62, 63] ∧ t.getV 0xF = 0 := by decide

/-- V-CTL-4: pc after a return is the popped address + 2 mod 65536. -/
theorem test_ret :
    let t := run 0x00EE { start with sp := 1, stack := start.stack.set 1 0xFFFF }
    t.pc = 0x0001 ∧ t.sp = 0 ∧ t.stackAt 1 = 0xFFFF := by decide

/-- V-CTL-1, at 0x200. -/
theorem test_ret_underflow :
    let t := run 0x00EE start
    t.fault = { valid := true, cause := 3, pc := 0x200, opcode := 0x00EE, addr := 0 } ∧
      t.pc = 0x200 ∧ t.sp = 0 := by decide

/-- V-SRC-2. -/
theorem test_jp : (run 0x1411 start).pc = 0x411 := by decide

/-- V-CTL-3: the deepest legal call. -/
theorem test_call :
    let t := run 0x2400 { start with sp := 14 }
    t.sp = 15 ∧ t.stackAt 15 = 0x200 ∧ t.pc = 0x400 ∧ t.halted = false := by decide

/-- V-CTL-2. -/
theorem test_call_overflow :
    let t := run 0x2400 { start with sp := 15 }
    t.fault.cause = 2 ∧ t.fault.opcode = 0x2400 ∧ t.sp = 15 ∧ t.stackAt 0 = 0 ∧ t.pc = 0x200 := by
  decide

/-- V-SRC-4. -/
theorem test_seImm : (run 0x3855 (start.setV 8 0x55)).pc = 0x204 := by decide

/-- V-CTL-11. -/
theorem test_sneImm :
    (run 0x4210 (start.setV 2 0x10)).pc = 0x202 ∧ (run 0x4211 (start.setV 2 0x10)).pc = 0x204 := by
  decide

/-- V-CTL-9, and the same word with unequal registers. -/
theorem test_seReg :
    (run 0x5560 ((start.setV 5 9).setV 6 9)).pc = 0x204 ∧ (run 0x5560 (start.setV 5 9)).pc = 0x202 := by
  decide

/-- V-CTL-10, and the same word with unequal registers. -/
theorem test_sneReg :
    (run 0x9560 ((start.setV 5 9).setV 6 9)).pc = 0x202 ∧ (run 0x9560 (start.setV 5 9)).pc = 0x204 := by
  decide

/-- V-CTL-6: no wrap. -/
theorem test_jpV0 : (run 0xBF01 (start.setV 0 0xFF)).pc = 0x1000 := by decide

/-- V-ALU-27. -/
theorem test_ldImm : (run 0x6A3E start).getV 0xA = 0x3E := by decide

/-- V-ALU-20. -/
theorem test_addImm :
    let t := run 0x7002 ((start.setV 0 0xFF).setVF 7)
    t.getV 0 = 0x01 ∧ t.getV 0xF = 7 := by decide

/-- V-ALU-24. -/
theorem test_ldReg : (run 0x8340 ((start.setV 3 0x12).setV 4 0x34)).getV 3 = 0x34 := by decide

/-- V-ALU-21. -/
theorem test_orReg :
    let t := run 0x8011 (((start.setV 0 0xF0).setV 1 0x0F).setVF 9)
    t.getV 0 = 0xFF ∧ t.getV 0xF = 9 := by decide

/-- V-ALU-22. -/
theorem test_andReg : (run 0x8012 ((start.setV 0 0xF0).setV 1 0x3C)).getV 0 = 0x30 := by decide

/-- V-ALU-23. -/
theorem test_xorReg : (run 0x8013 ((start.setV 0 0xF0).setV 1 0x3C)).getV 0 = 0xCC := by decide

/-- V-SRC-5a. -/
theorem test_addReg :
    let t := run 0x8974 ((start.setV 9 0xFF).setV 7 0x55)
    t.getV 9 = 0x54 ∧ t.getV 0xF = 1 ∧ t.getV 7 = 0x55 ∧ t.pc = 0x202 := by decide

/-- V-ALU-12 and V-ALU-15: X = F and Y = F. -/
theorem test_addReg_flagRegister :
    (run 0x8F14 ((start.setVF 0xFF).setV 1 1)).getV 0xF = 1 ∧
      (run 0x80F4 ((start.setV 0 1).setVF 0xFF)).getV 0 = 0 := by decide

/-- V-SRC-5b. -/
theorem test_subReg :
    let t := run 0x8975 ((start.setV 9 0x33).setV 7 0x55)
    t.getV 9 = 0xDE ∧ t.getV 0xF = 0 := by decide

/-- V-ALU-3 and V-ALU-18: equality is no borrow; X = F. -/
theorem test_subReg_corners :
    (run 0x8015 ((start.setV 0 0x42).setV 1 0x42)).getV 0xF = 1 ∧
      (run 0x8F15 ((start.setVF 2).setV 1 5)).getV 0xF = 0 := by decide

/-- V-ENC-9: Y is ignored. -/
theorem test_shr :
    let t := run 0x8AB6 ((start.setV 0xA 0x03).setV 0xB 0xFF)
    t.getV 0xA = 0x01 ∧ t.getV 0xF = 1 := by decide

/-- V-ALU-13: X = F. -/
theorem test_shr_flagRegister : (run 0x8F06 (start.setVF 0x03)).getV 0xF = 0 := by decide

/-- V-ALU-8. -/
theorem test_subnReg :
    let t := run 0x8017 ((start.setV 0 3).setV 1 5)
    t.getV 0 = 0x02 ∧ t.getV 0xF = 1 := by decide

/-- V-ALU-19 and V-ALU-17: X = F and Y = F. -/
theorem test_subnReg_flagRegister :
    (run 0x8F17 ((start.setVF 2).setV 1 5)).getV 0xF = 1 ∧
      (run 0x80F7 ((start.setV 0 5).setVF 7)).getV 0 = 0x02 := by decide

/-- V-ALU-10. -/
theorem test_shl :
    let t := run 0x801E (start.setV 0 0x80)
    t.getV 0 = 0x00 ∧ t.getV 0xF = 1 := by decide

/-- V-ALU-14: X = F. -/
theorem test_shl_flagRegister : (run 0x8F0E (start.setVF 0x80)).getV 0xF = 2 := by decide

/-- V-ALU-25. -/
theorem test_rnd : (run 0xC00F { start with rands := ⟨[0xAB], 0⟩ }).getV 0 = 0x0B := by decide

/-- V-SRC-3. -/
theorem test_ldI :
    let t := run 0xA09C start
    t.i = 0x09C ∧ t.pc = 0x202 := by decide

/-- V-MEM-8. -/
theorem test_addI :
    let t := run 0xF01E ({ start with i := 0xFFFF }.setV 0 1)
    t.i = 0 ∧ t.getV 0xF = 0 := by decide

/-- V-MEM-9. -/
theorem test_ldGlyph : (run 0xF029 (start.setV 0 0xFF)).i = 0x4FB := by decide

/-- V-MEM-2. -/
theorem test_bcd :
    let t := run 0xF033 ({ start with i := 0x300 }.setV 0 255)
    t.mem.readBytes 0x300 3 = [2, 5, 5] ∧ t.i = 0x300 := by decide

/-- V-MEM-3: a fault stores nothing. -/
theorem test_bcd_outOfRange :
    let t := run 0xF033 ({ start with i := 0xFFE }.setV 0 1)
    t.fault = { valid := true, cause := 6, pc := 0x200, opcode := 0xF033, addr := 0x1000 } ∧
      t.mem.readBytes 0xFFE 2 = [0, 0] := by decide

/-- V-SRC-10, the store. -/
theorem test_storeRegs :
    let t := run 0xF155 (({ start with i := 0x400 }.setV 0 0x11).setV 1 0x22)
    t.mem.readBytes 0x400 3 = [0x11, 0x22, 0] ∧ t.i = 0x400 := by decide

/-- V-MEM-5. -/
theorem test_storeRegs_outOfRange :
    let t := run 0xFF55 ({ start with i := 0xFF1 }.setV 0 1)
    t.fault.cause = 6 ∧ t.fault.addr = 0x1000 ∧ t.mem.read 0xFF1 = 0 := by decide

/-- V-MEM-7. -/
theorem test_loadRegs :
    (run 0xFF65 start).v.toList =
      [0xF0, 0x90, 0x90, 0x90, 0xF0, 0x20, 0x60, 0x20, 0x20, 0x70, 0xF0, 0x10, 0xF0, 0x80, 0xF0,
        0xF0] := by decide

/-- V-MEM-6. -/
theorem test_loadRegs_outOfRange :
    let t := run 0xFF65 ({ start with i := 0xFF1 }.setV 0 1)
    t.fault.cause = 5 ∧ t.fault.addr = 0x1000 ∧ t.getV 0 = 1 := by decide

/-- V-KEY-1 and V-KEY-2. -/
theorem test_skp :
    (run 0xE39E ({ start with keys := ⟨[some 7], 0⟩ }.setV 3 7)).pc = 0x204 ∧
      (run 0xE39E ({ start with keys := ⟨[none], 0⟩ }.setV 3 7)).pc = 0x202 := by decide

/-- V-KEY-3 and V-KEY-6: no key code exceeds 0xF. -/
theorem test_skp_sknp_noMask :
    (run 0xE09E ({ start with keys := ⟨[some 0], 0⟩ }.setV 0 0x10)).pc = 0x202 ∧
      (run 0xE0A1 ({ start with keys := ⟨[some 0], 0⟩ }.setV 0 0x10)).pc = 0x204 := by decide

/-- V-KEY-4 and V-KEY-5. -/
theorem test_sknp :
    (run 0xE3A1 ({ start with keys := ⟨[none], 0⟩ }.setV 3 7)).pc = 0x204 ∧
      (run 0xE3A1 ({ start with keys := ⟨[some 7], 0⟩ }.setV 3 7)).pc = 0x202 := by decide

/-- V-TMR-1. -/
theorem test_ldRegDt :
    let t := run 0xF507 { start with dt := 0x20 }
    t.getV 5 = 0x20 ∧ t.dt = 0x20 := by decide

/-- V-KEY-7. -/
theorem test_waitKey_none :
    let t := run 0xF30A { start with keys := ⟨[none], 0⟩ }
    t.pc = 0x200 ∧ t.getV 3 = 0 := by decide

/-- V-KEY-9. -/
theorem test_waitKey :
    let t := run 0xFF0A { start with keys := ⟨[some 0xC], 0⟩ }
    t.getV 0xF = 0x0C ∧ t.pc = 0x202 := by decide

/-- V-TMR-2. -/
theorem test_ldDtReg : (run 0xF015 (start.setV 0 3)).dt = 3 := by decide

/-- V-TMR-3. -/
theorem test_ldStReg : (run 0xF118 (start.setV 1 0x3C)).st = 0x3C := by decide

/-- V-TMR-6: two ticks of DT and none of ST, in the gap before a step that reads DT. -/
theorem test_gap :
    let t := run 0xF507 { start with dt := 5, st := 5, gaps := ⟨[⟨2, 0⟩], 0⟩ }
    t.getV 5 = 3 ∧ t.dt = 3 ∧ t.st = 5 := by decide

/-- V-TMR-5: ticks do not take a timer below 0. -/
theorem test_gap_stops : (run 0xF507 { start with dt := 1, gaps := ⟨[⟨3, 0⟩], 0⟩ }).dt = 0 := by
  decide

/-- V-ENC-3. -/
theorem test_unknownOpcode :
    let t := run 0x5121 start
    t.fault = { valid := true, cause := 1, pc := 0x200, opcode := 0x5121, addr := 0 } ∧
      t.opcode = 0x5121 ∧ t.pc = 0x200 := by decide

/-- V-CTL-5, the second step. -/
theorem test_fetchOutOfRange :
    (stepped { start with pc := 0xFFF }).fault =
      { valid := true, cause := 4, pc := 0xFFF, opcode := 0, addr := 0x1000 } := by decide

/-- V-TMR-7 and V-ENC-8: a halted core does nothing, and its timers tick on. -/
theorem test_halted :
    let s := { run 0x5121 start with dt := 2, gaps := ⟨[⟨1, 0⟩], 0⟩ }
    stepped s = { s with dt := 1, gaps := ⟨[], 0⟩ } := by decide

/-- V-SRC-11: reset after a fault, twice. -/
theorem test_reset :
    (run 0x5121 start).resetCore = State.reset ∧ State.reset.resetCore = State.reset := by decide

/-- withFetchWord places a word where the next step runs it, whatever stood in the way (log 15). -/
theorem test_withFetchWord :
    (run 0x6A3E { start with pc := 0xFFFF, fault := { FaultRecord.clear with valid := true } }).getV
      0xA = 0x3E := by decide

/-! ## Witnesses: states and operands that meet the hypotheses of the statements

Each is named after its statement. A statement with no hypothesis needs none. -/

/-- DecodeAfterEncode, at the top of NNN and of N. -/
theorem test_witness_DecodeAfterEncode :
    (Instr.jp 0xFFF).WellFormed ∧ (Instr.drw 0xF 0xF 15).WellFormed ∧ (Instr.skp 0xF).WellFormed := by
  decide

theorem test_witness_EncodeAfterDecode :
    decodeWord 0xDFFF = .ok (.drw 0xF 0xF 15) ∧ decodeWord 0x1000 = .ok (.jp 0) := by decide

/-- Both clauses, one form per mask. -/
theorem test_witness_DecodeByMaskAndMatch :
    decodeWord 0x00E0 = .ok .cls ∧ (0x00E0#16 &&& formMask .cls) = formMatch .cls ∧
    (0x1FFF#16 &&& formMask (.jp 0)) = formMatch (.jp 0) ∧
    (0x8FFE#16 &&& formMask (.shl 0 0)) = formMatch (.shl 0 0) ∧
    (0xFF65#16 &&& formMask (.loadRegs 0)) = formMatch (.loadRegs 0) := by decide

/-- Both sides of the equivalence. -/
theorem test_witness_UnknownWords :
    decodeWord 0x00EF = .error (.unknownOpcode 0x00EF) ∧ decodeWord 0x00EE = .ok .ret := by decide

/-- At the start, and at the last pc that can fetch. -/
theorem test_witness_StepRunsDecodedInstruction :
    let s := poked 0x200 [0x14, 0x11] start
    let e := poked 0xFFE [0x60, 0x11] { start with pc := 0xFFE }
    (s.halted = false ∧ s.pc.toNat + 1 < Config.memSize ∧
      (0x1411#16).toNat = (s.mem.read s.pc.toNat).toNat * 256 + (s.mem.read (s.pc.toNat + 1)).toNat ∧
      decodeWord 0x1411 = .ok (.jp 0x411)) ∧
    (e.halted = false ∧ e.pc.toNat + 1 < Config.memSize ∧
      (0x6011#16).toNat = (e.mem.read e.pc.toNat).toNat * 256 + (e.mem.read (e.pc.toNat + 1)).toNat ∧
      decodeWord 0x6011 = .ok (.ldImm 0 0x11)) := by decide

theorem test_witness_UnknownOpcodeFaults :
    State.reset.halted = false ∧ State.reset.pc.toNat + 1 < Config.memSize ∧
      decodeWord State.reset.fetchWord = .error (.unknownOpcode State.reset.fetchWord) := by decide

/-- Both clauses of the reported address: pc + 1 = 0x1000, and pc = 0x1000. -/
theorem test_witness_FetchOutOfRangeFaults :
    let s := { start with pc := 0xFFF }
    let e := { start with pc := 0x1000 }
    (s.halted = false ∧ Config.memSize ≤ s.pc.toNat + 1 ∧ ¬ Config.memSize ≤ s.pc.toNat) ∧
    (e.halted = false ∧ Config.memSize ≤ e.pc.toNat + 1 ∧ Config.memSize ≤ e.pc.toNat) := by decide

/-- The core halted by an unknown opcode. -/
def haltedState : State := run 0x5121 start

theorem test_witness_HaltedStepDoesNothing : haltedState.halted = true := by decide

/-- Both clauses: a fault of the fetch, and one after it. -/
theorem test_witness_FaultsArePrecise :
    (let s := { start with pc := 0xFFF }
     s.halted = false ∧ ∃ t, coreStep s = .next t ∧ t.halted = true ∧ t.fault.cause = 4) ∧
    (State.reset.halted = false ∧
      ∃ t, coreStep State.reset = .next t ∧ t.halted = true ∧ t.fault.cause ≠ 4) :=
  ⟨⟨rfl, _, rfl, rfl, rfl⟩, ⟨rfl, _, rfl, rfl, by decide⟩⟩

/-- A step that stores to memory. -/
theorem test_witness_StepKeepsInvariant :
    let s := State.withFetchWord ({ start with i := 0x300 }.setV 0 255) 16 0xF033
    s.Inv ∧ ∃ t, step s = .next t ∧ t.mem.read 0x300 = 2 :=
  ⟨⟨by decide, by decide⟩, _, rfl, by decide⟩

/-- A core step that faults, and a load. -/
theorem test_witness_EventsKeepInvariant :
    State.reset.Inv ∧ (∃ t, react .refusesWrites .coreStep State.reset = .next t ∧ t.fault.valid = true) ∧
      ∃ t, react .refusesWrites (.host (.load [0x14, 0x11])) State.reset = .next t ∧ t.mem.read 0x200 = 0x14 :=
  ⟨⟨by decide, by decide⟩, ⟨_, rfl, rfl⟩, ⟨_, rfl, by decide⟩⟩

/-- A tick, and a host write under both readings of the halted port. -/
theorem test_witness_OnlyResetLeavesHalt :
    haltedState.halted = true ∧ Event.tickDt ≠ .host .reset ∧
      (∃ t, react .refusesWrites .tickDt { haltedState with dt := 2 } = .next t ∧ t.dt = 1) ∧
      react .refusesWrites (.host (.writeDt 5)) haltedState = .refused .coreHalted ∧
      ∃ t, react .takesWrites (.host (.writeDt 5)) haltedState = .next t ∧ t.dt = 5 :=
  ⟨by decide, by decide, ⟨_, rfl, by decide⟩, rfl, _, rfl, rfl⟩

/-- Both clauses: a tick and a step that does not fault, and one that does. -/
theorem test_witness_OnlyFaultingStepWritesRecord :
    (start.halted = false ∧ ∃ t, react .refusesWrites .tickDt start = .next t ∧ t.halted = false) ∧
      ∃ t, react .refusesWrites .coreStep start = .next t ∧ t.halted = true :=
  ⟨⟨by decide, _, rfl, rfl⟩, _, rfl, rfl⟩

/-- Both cases: a form that runs, and one that faults. -/
theorem test_witness_InstructionFrames :
    (∃ t, exec (.addI 1) (start.setV 1 9) = .next t ∧ t.i = 9 ∧ t.halted = false) ∧
      ∃ t, exec .ret start = .next t ∧ t.halted = true :=
  ⟨⟨_, rfl, by decide, rfl⟩, _, rfl, rfl⟩

theorem test_witness_OnlyFlagFormsWriteVF :
    mayWriteVF (.ldImm 3 9) = false ∧ ∃ t, exec (.ldImm 3 9) start = .next t ∧ t.getV 3 = 9 :=
  ⟨by decide, _, rfl, by decide⟩

/-- The same two cells, written in either order. -/
theorem test_witness_MemoryFormIsUnique :
    let m := Memory.write (Memory.write [] 0x301 2) 0xFFF 1
    let n := Memory.write (Memory.write [] 0xFFF 1) 0x301 2
    m.wf = true ∧ n.wf = true ∧ m.length = 2 ∧ ∀ a : Nat, m.read a = n.read a :=
  ⟨by decide, by decide, by decide, fun _ => rfl⟩

/-- Both clauses, at the edges of the address and of the value, in the running and the halted core. -/
theorem test_witness_HostWriteSetsOneCell :
    State.reset.mem.wf = true ∧ State.reset.halted = false ∧
      haltedState.mem.wf = true ∧ haltedState.halted = true ∧ (0xFFF < Config.memSize ∧ 255 < 256) ∧
      Config.memSize ≤ 0x1000 ∧ 256 ≤ 256 := by decide

/-- Both clauses: the longest program that fits, and one byte more. -/
theorem test_witness_LoadPlacesProgram :
    State.reset.mem.wf = true ∧
      0x200 + (List.replicate 3584 (0 : Byte)).length ≤ Config.memSize ∧
      Config.memSize < 0x200 + (List.replicate 3585 (0 : Byte)).length := by
  simp only [List.length_replicate]
  decide

/-- HostWritesKeepLimits, on both sides of each limit. -/
theorem test_hostWrite_limits :
    hostAct .refusesWrites (.writeV 15 256) start = .refused .illegalHostWrite ∧
    hostAct .refusesWrites (.writeV 16 255) start = .refused .illegalHostWrite ∧
    hostAct .refusesWrites (.writeI 65536) start = .refused .illegalHostWrite ∧
    hostAct .refusesWrites (.writeSp 16) start = .refused .illegalHostWrite ∧
    hostAct .refusesWrites (.writePixel 31 63 2) start = .refused .illegalHostWrite ∧
    hostAct .refusesWrites (.writePixel 32 63 1) start = .refused .illegalHostWrite ∧
    hostAct .refusesWrites (.writeSp 15) start = .next { start with sp := 15 } ∧
    hostAct .refusesWrites (.writePc 65535) start = .next { start with pc := 0xFFFF } ∧
    hostAct .refusesWrites (.writePc 65535) haltedState = .refused .coreHalted ∧
    hostAct .takesWrites (.writePc 65535) haltedState = .next { haltedState with pc := 0xFFFF } :=
  ⟨rfl, rfl, rfl, rfl, rfl, rfl, rfl, rfl, rfl, rfl⟩

/-- Both branches: two bytes that end at the top of memory, no byte at an I past it, and a third byte
past it. -/
theorem test_witness_DrawSpriteResult :
    let s := { start with i := 0xFFE }
    2 ≤ 15 ∧ s.i.toNat + 2 ≤ Config.memSize ∧ ¬ (3 = 0 ∨ s.i.toNat + 3 ≤ Config.memSize) ∧
      ∃ t, exec (.drw 0 1 0) { start with i := 0xFFFF } = .next t ∧ t.halted = false ∧ t.pc = 0x202 :=
  ⟨by decide, by decide, by decide, _, rfl, rfl, rfl⟩

/-- A pixel on which a set sprite bit falls, over a pixel that holds 1, and one on which none falls. -/
theorem test_witness_DrawSpriteResult_pixels :
    let s := { start with fb := start.fb.setPixel 0 0 true }
    (SpriteFallsOn s 0 1 5 0 0 ∧ s.fb.pixel 0 0 = true) ∧ ¬ SpriteFallsOn s 0 1 5 9 0 := by
  refine ⟨⟨⟨0, 0, by decide, by decide, by decide, by decide, by decide⟩, by decide⟩, ?_⟩
  rintro ⟨k, j, hk, -, hr, -⟩
  have hr' : 9 = (0 + k) % 32 := hr
  omega

theorem test_witness_DrawTwiceRestoresFramebuffer :
    (5 : Nat) ≤ 15 ∧ (1 : Reg) ≠ 0xF ∧ (5 = 0 ∨ start.i.toNat + 5 ≤ Config.memSize) := by decide

/-- Both branches: an empty stack, and the deepest one. -/
theorem test_witness_ReturnResult :
    start.sp = 0 ∧ ∃ t, exec .ret { start with sp := 15 } = .next t ∧ t.sp = 14 :=
  ⟨by decide, _, rfl, by decide⟩

/-- Both branches: the deepest legal call, and one more. -/
theorem test_witness_CallResult :
    (∃ t, exec (.call 0x300) { start with sp := 14 } = .next t ∧ t.sp = 15 ∧ t.halted = false) ∧
      ∃ t, exec (.call 0x300) { start with sp := 15 } = .next t ∧ t.fault.cause = 2 :=
  ⟨⟨_, rfl, by decide, rfl⟩, ⟨_, rfl, rfl⟩⟩

/-- The state after the call is itself a u that meets the inner hypotheses. -/
theorem test_witness_CallThenReturn :
    start.sp.val < 15 ∧ ∃ t u : State, exec (.call 0x300) start = .next t ∧ u.sp = t.sp ∧
      u.stack = t.stack ∧ u.pc = 0x208 :=
  ⟨by decide, _, { (start.push start.pc) with pc := 0x208 }, rfl, rfl, rfl, rfl⟩

theorem test_witness_IndexedJumpResult :
    (Instr.jpV0 0xFFF).WellFormed ∧ (Instr.jpV0 0).WellFormed := by decide

theorem test_witness_SelfJumpIsIdle :
    let s := poked 0x200 [0x12, 0x00] start
    s.halted = false ∧ s.pc.toNat + 1 < Config.memSize ∧ s.fetchWord = encode (.jp s.pc) := by decide

/-- Both branches, on both sides of the top of memory; FX33 stores three bytes. -/
theorem test_witness_DecimalStoreResult :
    start.mem.wf = true ∧ (0xFFD#16).toNat + 3 ≤ Config.memSize ∧
      ¬ (0xFFE#16).toNat + 3 ≤ Config.memSize := by decide

/-- Both branches of FX55 and of FX65, on both sides of the top of memory, with X = F. -/
theorem test_witness_RegisterStoreResult_RegisterLoadResult :
    start.mem.wf = true ∧ (0xFF0#16).toNat + (0xF : Reg).val + 1 ≤ Config.memSize ∧
      ¬ (0xFF1#16).toNat + (0xF : Reg).val + 1 ≤ Config.memSize := by decide

/-- The state after the store is itself a u that meets the inner hypotheses. -/
theorem test_witness_StoreThenLoadRestoresRegisters :
    let s := { start with i := 0xFF0 }.setV 0 7
    s.mem.wf = true ∧ s.i.toNat + (0xF : Reg).val + 1 ≤ Config.memSize ∧
      ∃ t, exec (.storeRegs 0xF) s = .next t ∧ t.i = s.i ∧ t.mem.read 0xFF0 = 7 :=
  ⟨by decide, by decide, _, rfl, rfl, by decide⟩

theorem test_witness_NextFetchSeesStore :
    let s := { start with i := 0x202 }
    s.mem.wf = true ∧ 1 ≤ (1 : Reg).val ∧ s.i = s.pc + 2 ∧
      s.i.toNat + (1 : Reg).val + 1 ≤ Config.memSize := by decide

/-- KeySkipResults and KeyWaitResult, each clause: a key that matches, one that does not, none. -/
theorem test_witness_KeySkipResults_KeyWaitResult :
    let s := { start with keys := ⟨[some 0xF], 0⟩ }.setV 3 0xF
    (∃ k, s.keyAnswer = some k ∧ k.toNat = (s.getV 3).toNat) ∧
      (¬ ∃ k, s.keyAnswer = some k ∧ k.toNat = (s.getV 2).toNat) ∧
      State.keyAnswer { s with keys := ⟨[none], 0⟩ } = none := by decide

/-- The feeds that RandomResult and EveryKeyAnswerPossible ask for, at one value each. -/
theorem test_witness_feeds :
    State.randomByte { start with rands := ⟨[0xFF], 0⟩ } = 0xFF ∧
      State.keyAnswer { start with keys := ⟨[none], 0⟩ } = none := by decide

/-- TickResults, both clauses: V-TMR-4. -/
theorem test_ticks :
    State.tickDt { start with dt := 1 } = start ∧ State.tickSt start = start := by decide

end Sys2Proof.Tests
end

section
/-! Scope, part 1: the invariant `State.Inv` under every event of the block's interface
(spec/00_scope.md R18). -/

namespace Sys2Proof.Machine

/-! ## The invariant after a fault (spec/60_exceptions.md R260) -/

/-- A fault found after the fetch keeps the invariant, when the word in the opcode register may raise
its cause, and its address fits both the cause and FAULT_ADDR. -/
theorem State.Inv.raise {s : State} {c : Cause} {a : Nat} (hs : s.Inv)
    (hfetch : c.code ≠ Cause.fetchOutOfRange.code) (hword : causeFitsWord c.code s.opcode = true)
    (haddr : addrFitsCause c.code a = true) (ha : (BitVec.ofNat 17 a).toNat = a) :
    (s.raise c a).Inv := by
  refine ⟨hs.1, ?_⟩
  rw [State.raise_fault, FaultRecord.wf, if_pos rfl, if_neg hfetch, Bool.and_eq_true, ha]
  exact ⟨hword, haddr⟩

/-- A load's or store's fault at the address that the range check reports keeps the invariant. -/
theorem State.Inv.raise_outOfRange {s : State} {c : Cause} {a n : Nat} (hs : s.Inv)
    (hc : c = .loadOutOfRange ∨ c = .storeOutOfRange)
    (hword : causeFitsWord c.code s.opcode = true)
    (ha : firstOutOfRange s.i.toNat n = some a) : (s.raise c a).Inv := by
  obtain ⟨-, -, hmem, -⟩ := firstOutOfRange_eq_some.mp ha
  have haddr : addrFitsCause c.code a = true := by
    rcases hc with rfl | rfl <;> exact decide_eq_true hmem
  have hfetch : c.code ≠ Cause.fetchOutOfRange.code := by
    rcases hc with rfl | rfl <;> decide
  exact hs.raise hfetch hword haddr (toNat_reportedAddr ha)

/-- A fault of the fetch keeps the invariant. -/
theorem State.Inv.raiseFetch {s : State} {a : Nat} (hs : s.Inv)
    (ha : firstOutOfRange s.pc.toNat 2 = some a) : (s.raiseFetch a).Inv := by
  refine ⟨hs.1, ?_⟩
  rw [State.raiseFetch_fault, FaultRecord.wf, if_pos rfl, if_pos rfl, Bool.and_eq_true,
    toNat_reportedAddr ha]
  exact ⟨rfl, decide_eq_true ha⟩

/-! ## The invariant under each event -/

/-- A form keeps the invariant when the opcode register holds a word that selects it, as it does in a
core step: the cause it can raise is then one that R260 allows with that word. -/
theorem exec_keeps_inv {i : Instr} {s t : State} (hs : s.Inv) (hd : decodeWord s.opcode = .ok i)
    (h : exec i s = .next t) : t.Inv := by
  rcases exec_cases i s t h with ⟨rfl, rfl⟩ | ⟨⟨nnn, rfl⟩, rfl⟩ | ⟨hi, a, n, ha, rfl⟩ |
    ⟨hi, a, n, ha, rfl⟩ | ⟨hfault, -, hmem⟩
  · exact hs.raise (by decide) (by simp [causeFitsWord, hd]) rfl rfl
  · exact hs.raise (by decide) (by simp [causeFitsWord, hd]) rfl rfl
  · refine hs.raise_outOfRange (.inl rfl) ?_ ha
    rcases hi with ⟨x, y, m, rfl⟩ | ⟨x, rfl⟩ <;> simp [causeFitsWord, hd]
  · refine hs.raise_outOfRange (.inr rfl) ?_ ha
    rcases hi with ⟨x, rfl⟩ | ⟨x, rfl⟩ <;> simp [causeFitsWord, hd]
  · exact ⟨hmem hs.1, hfault ▸ hs.2⟩

/-- A core step keeps the invariant (spec/30_encoding.md R120). -/
theorem coreStep_keeps_inv {s t : State} (hs : s.Inv) (h : coreStep s = .next t) : t.Inv := by
  rcases coreStep_cases s with ⟨-, hstep⟩ | ⟨-, a, ha, hstep⟩ |
    ⟨-, -, ⟨r, hd, hstep⟩ | ⟨i, hd, hstep⟩⟩ <;> rw [hstep] at h
  · cases h
    exact hs
  · cases h
    exact hs.raiseFetch ha
  · cases h
    have hlatch : (s.latch s.fetchWord).Inv := hs
    exact hlatch.raise (by decide) (by simp [causeFitsWord, hd]) rfl rfl
  · have hlatch : (s.latch s.fetchWord).Inv := hs
    exact exec_keeps_inv hlatch hd h

/-- A host action keeps the invariant: reset, load and a memory write by the laws of memory's one form,
the rest because they leave memory and the fault record alone (spec/20_memory.md R84, R85). -/
theorem hostAct_keeps_inv {s t : State} {port : HaltedPort} {a : HostAction} (hs : s.Inv)
    (h : hostAct port a s = .next t) : t.Inv := by
  cases a with
  | reset =>
    cases h
    exact ⟨rfl, rfl⟩
  | load program =>
    obtain ⟨hfits, -, rfl⟩ := loadProgram_next h
    exact ⟨Memory.wf_writeBytes hs.1 (.inr hfits), hs.2⟩
  | writeMem a b =>
    obtain ⟨hlegal, -, rfl⟩ := State.hostChange_next h
    exact ⟨Memory.wf_write _ hs.1 (of_decide_eq_true hlegal).1, hs.2⟩
  | writeFault f => cases h
  | _ =>
    obtain ⟨-, -, rfl⟩ := State.hostChange_next h
    exact hs

end Sys2Proof.Machine

open Sys2Proof.Machine

/-- Settles O19, event by event: the core's step, the ticks (which touch neither memory nor the fault
record) and the host's actions. -/
theorem eventsKeepInvariant : Obligations.EventsKeepInvariant := by
  intro port e s t hs h
  cases e with
  | coreStep => exact coreStep_keeps_inv hs h
  | tickDt =>
    cases h
    exact hs
  | tickSt =>
    cases h
    exact hs
  | host a => exact hostAct_keeps_inv hs h
end

section
/-! Scope, part 2: what a transition leaves alone, and the halted core (spec/60_exceptions.md R262,
R263, R278). -/

namespace Sys2Proof.Machine

/-- Every part but the listed ones is unchanged when the fields of the parts not listed are equal. -/
theorem sameExcept_of_fields {changed : List Part} {s t : State}
    (h : (.v ∉ changed → t.v = s.v) ∧ (.i ∉ changed → t.i = s.i) ∧
      (.pc ∉ changed → t.pc = s.pc) ∧ (.sp ∉ changed → t.sp = s.sp) ∧
      (.stack ∉ changed → t.stack = s.stack) ∧ (.dt ∉ changed → t.dt = s.dt) ∧
      (.st ∉ changed → t.st = s.st) ∧ (.fb ∉ changed → t.fb = s.fb) ∧
      (.opcode ∉ changed → t.opcode = s.opcode) ∧ (.fault ∉ changed → t.fault = s.fault) ∧
      (.mem ∉ changed → t.mem = s.mem) ∧ (.keys ∉ changed → t.keys = s.keys) ∧
      (.rands ∉ changed → t.rands = s.rands) ∧ (.gaps ∉ changed → t.gaps = s.gaps)) :
    SameExcept changed s t := by
  obtain ⟨hv, hi, hpc, hsp, hstack, hdt, hst, hfb, hopcode, hfault, hmem, hkeys, hrands, hgaps⟩ := h
  intro p hp
  cases p with
  | v => exact fun x => congrArg (·[x]) (hv hp)
  | i => exact hi hp
  | pc => exact hpc hp
  | sp => exact hsp hp
  | stack => exact fun k => congrArg (·[k]) (hstack hp)
  | dt => exact hdt hp
  | st => exact hst hp
  | fb => exact fun r c => congrArg (Frame.pixel · r c) (hfb hp)
  | opcode => exact hopcode hp
  | fault => exact hfault hp
  | mem => exact fun a => congrArg (Memory.read · a) (hmem hp)
  | keys => exact hkeys hp
  | rands => exact hrands hp
  | gaps => exact hgaps hp

theorem tickDt_frame (s : State) : SameExcept [.dt] s s.tickDt := sameExcept_of_fields (by simp)

theorem tickSt_frame (s : State) : SameExcept [.st] s s.tickSt := sameExcept_of_fields (by simp)

/-- A host action other than reset that happens in the halted core does so under R12's reading of the
port only (log 16). -/
theorem hostAct_next_halted {s t : State} {port : HaltedPort} {a : HostAction}
    (hs : s.halted = true) (ha : a ≠ .reset) (h : hostAct port a s = .next t) :
    port = .takesWrites := by
  obtain ⟨hopen, -⟩ := hostAct_next ha h
  rcases State.portOpen_iff.mp hopen with hrun | hport
  · simp [hs] at hrun
  · exact hport

end Sys2Proof.Machine

open Sys2Proof.Machine

/-- Settles O20, event by event: a halted step is idle, a tick has its frame, and a host action other
than reset leaves the record and needs R12's reading of the port. -/
theorem onlyResetLeavesHalt : Obligations.OnlyResetLeavesHalt := by
  intro s hs
  refine ⟨coreStep_halted hs, fun port e t he h => ?_⟩
  cases e with
  | coreStep =>
    cases (coreStep_halted hs).symm.trans h
    exact ⟨rfl, .inl ⟨rfl, rfl⟩⟩
  | tickDt =>
    cases h
    exact ⟨rfl, .inr (.inl ⟨rfl, tickDt_frame s⟩)⟩
  | tickSt =>
    cases h
    exact ⟨rfl, .inr (.inr (.inl ⟨rfl, tickSt_frame s⟩))⟩
  | host a =>
    have ha : a ≠ .reset := fun e => he (e ▸ rfl)
    exact ⟨(hostAct_next ha h).2,
      .inr (.inr (.inr ⟨hostAct_next_halted hs ha h, a, rfl⟩))⟩
end

section
/-! Scope, part 3: each host write sets one field of the spec's state, or is refused (spec/00_scope.md
R12, spec/20_memory.md R85; logs 13 and 16). -/

namespace Sys2Proof.Machine

/-! ## A host change as the statements speak of it -/

section

variable {a : HostAction} {s t : State} {legal : Prop} [Decidable legal] {illegal : Refusal}

/-- A legal host change is what `HostChanges` asks for, under both readings of the halted port. -/
theorem hostChanges_of_legal {Post : State → Prop}
    (hact : ∀ port, hostAct port a s = s.hostChange port (decide legal) illegal t)
    (hlegal : legal) (hpost : Post t) : HostChanges a s Post := by
  simp only [decide_eq_true hlegal] at hact
  refine fun port => ⟨fun hopen => ⟨t, ?_, hpost⟩, fun hhalted hport => ?_⟩
  · rw [hact, State.hostChange_open illegal t (State.portOpen_iff.mpr hopen)]
  · subst hport
    rw [hact, State.hostChange_closed illegal t (State.portOpen_refusesWrites hhalted)]

/-- An illegal host change is refused under both readings of the halted port. -/
theorem hostRefuses_of_illegal
    (hact : ∀ port, hostAct port a s = s.hostChange port (decide legal) illegal t)
    (hillegal : ¬ legal) : HostRefuses a s illegal := by
  intro port
  rw [hact, decide_eq_false hillegal, State.hostChange_illegal]

end

/-! ## Legal writes, field by field -/

section

variable (s : State) {w : Nat}

theorem hostChanges_writeV (x : Reg) (hw : w < 256) : HostChanges (.writeV x w) s fun t =>
    (t.getV x).toNat = w ∧ RegsSameExcept [x] s t ∧ SameExcept [.v] s t := by
  refine hostChanges_of_legal (fun _ => rfl) ⟨x.isLt, hw⟩ ?_
  rw [Fin.ofNat_eq_cast, Fin.cast_val_eq_self]
  refine ⟨?_, fun r hr => ?_, sameExcept_of_fields (by simp)⟩
  · rw [State.getV_setV_same, BitVec.toNat_ofNat, Nat.mod_eq_of_lt hw]
  · rw [State.getV_setV, if_neg (by simpa using hr)]

theorem hostChanges_writeDt (hw : w < 256) : HostChanges (.writeDt w) s fun t =>
    t.dt.toNat = w ∧ SameExcept [.dt] s t :=
  hostChanges_of_legal (fun _ => rfl) hw
    ⟨Nat.mod_eq_of_lt hw, sameExcept_of_fields (by simp)⟩

theorem hostChanges_writeSt (hw : w < 256) : HostChanges (.writeSt w) s fun t =>
    t.st.toNat = w ∧ SameExcept [.st] s t :=
  hostChanges_of_legal (fun _ => rfl) hw
    ⟨Nat.mod_eq_of_lt hw, sameExcept_of_fields (by simp)⟩

theorem hostChanges_writeI (hw : w < 65536) : HostChanges (.writeI w) s fun t =>
    t.i.toNat = w ∧ SameExcept [.i] s t :=
  hostChanges_of_legal (fun _ => rfl) hw
    ⟨Nat.mod_eq_of_lt hw, sameExcept_of_fields (by simp)⟩

theorem hostChanges_writePc (hw : w < 65536) : HostChanges (.writePc w) s fun t =>
    t.pc.toNat = w ∧ SameExcept [.pc] s t :=
  hostChanges_of_legal (fun _ => rfl) hw
    ⟨Nat.mod_eq_of_lt hw, sameExcept_of_fields (by simp)⟩

theorem hostChanges_writeSp {k : Nat} (hk : k < 16) : HostChanges (.writeSp k) s fun t =>
    t.sp.val = k ∧ SameExcept [.sp] s t :=
  hostChanges_of_legal (fun _ => rfl) hk
    ⟨Nat.mod_eq_of_lt hk, sameExcept_of_fields (by simp)⟩

theorem hostChanges_writeStack (e : Fin 16) (hw : w < 65536) :
    HostChanges (.writeStack e w) s fun t =>
      (t.stackAt e).toNat = w ∧ (∀ j, j ≠ e → t.stackAt j = s.stackAt j) ∧
      SameExcept [.stack] s t := by
  refine hostChanges_of_legal (fun _ => rfl) ⟨e.isLt, hw⟩ ?_
  simp only [Fin.ofNat_eq_cast, Fin.cast_val_eq_self]
  refine ⟨?_, fun j hj => ?_, sameExcept_of_fields (by simp)⟩
  · simpa [State.stackAt] using hw
  · exact Vector.getElem_set_ne e.isLt j.isLt (fun h => hj (Fin.ext h.symm))

theorem hostChanges_writePixel (r : Fin 32) (c : Fin 64) (hw : w < 2) :
    HostChanges (.writePixel r c w) s fun t =>
      t.fb.pixel r c = decide (w = 1) ∧
      (∀ r' c', (r', c') ≠ (r, c) → t.fb.pixel r' c' = s.fb.pixel r' c') ∧
      SameExcept [.fb] s t := by
  refine hostChanges_of_legal (fun _ => rfl) ⟨r.isLt, c.isLt, hw⟩ ?_
  rw [Fin.ofNat_eq_cast, Fin.ofNat_eq_cast, Fin.cast_val_eq_self, Fin.cast_val_eq_self]
  refine ⟨?_, fun r' c' hne => ?_, sameExcept_of_fields (by simp)⟩
  · rw [Frame.pixel_setPixel, if_pos ⟨rfl, rfl⟩]
  · rw [Frame.pixel_setPixel, if_neg (by simpa using hne)]

theorem hostChanges_writeMem {a : Nat} (hwf : s.mem.wf = true) (ha : a < Config.memSize)
    (hw : w < 256) : HostChanges (.writeMem a w) s fun t =>
      (t.mem.read a).toNat = w ∧ MemSameOutside a 1 s t ∧ SameExcept [.mem] s t := by
  refine hostChanges_of_legal (fun _ => rfl) ⟨ha, hw⟩
    ⟨?_, fun b hb => ?_, sameExcept_of_fields (by simp)⟩
  · rw [Memory.read_write hwf, if_pos rfl, BitVec.toNat_ofNat, Nat.mod_eq_of_lt hw]
  · rw [Memory.read_write hwf, if_neg (by omega)]

end

end Sys2Proof.Machine

open Sys2Proof.Machine

/-- Settles O26: a legal write by the read after a write of memory's one form, an illegal one by its
limits. -/
theorem hostWriteSetsOneCell : Obligations.HostWriteSetsOneCell := by
  intro s a b hwf
  refine ⟨fun ha hb => hostChanges_writeMem s hwf ha hb, fun hab => ?_⟩
  exact hostRefuses_of_illegal (fun _ => rfl) fun h => by omega

/-- Settles O28, field by field: below each limit by the write's lemma, and above it because the write
is illegal. -/
theorem hostWritesKeepLimits : Obligations.HostWritesKeepLimits := by
  intro s k w x e r c f
  refine ⟨?byte, ?word, ?sp, ?pixel, fun j hj => ⟨?regIndex, ?stackIndex⟩, fun a b hab => ?pixelIndex,
    fun _ => rfl⟩
  case byte =>
    split_ifs with hw
    · exact ⟨hostChanges_writeV s x hw, hostChanges_writeDt s hw, hostChanges_writeSt s hw⟩
    · exact ⟨hostRefuses_of_illegal (fun _ => rfl) fun h => hw h.2,
        hostRefuses_of_illegal (fun _ => rfl) hw, hostRefuses_of_illegal (fun _ => rfl) hw⟩
  case word =>
    split_ifs with hw
    · exact ⟨hostChanges_writeI s hw, hostChanges_writePc s hw, hostChanges_writeStack s e hw⟩
    · exact ⟨hostRefuses_of_illegal (fun _ => rfl) hw, hostRefuses_of_illegal (fun _ => rfl) hw,
        hostRefuses_of_illegal (fun _ => rfl) fun h => hw h.2⟩
  case sp =>
    split_ifs with hk
    · exact hostChanges_writeSp s (Nat.lt_succ_of_le hk)
    · exact hostRefuses_of_illegal (fun _ => rfl) fun h => hk (Nat.le_of_lt_succ h)
  case pixel =>
    split_ifs with hw
    · exact hostChanges_writePixel s r c (Nat.lt_succ_of_le hw)
    · exact hostRefuses_of_illegal (fun _ => rfl) fun h => hw (Nat.le_of_lt_succ h.2.2)
  case regIndex => exact hostRefuses_of_illegal (fun _ => rfl) fun h => Nat.not_lt_of_le hj h.1
  case stackIndex => exact hostRefuses_of_illegal (fun _ => rfl) fun h => Nat.not_lt_of_le hj h.1
  case pixelIndex =>
    exact hostRefuses_of_illegal (fun _ => rfl) fun h =>
      hab.elim (Nat.not_lt_of_le · h.1) (Nat.not_lt_of_le · h.2.1)
end

section
/-! State, part 1: what one form may change, V registers included (spec/10_state.md R32, R35, R40, R45,
R48, R51; spec/60_exceptions.md R261). -/

namespace Sys2Proof.Machine

/-! ## The frame of a form -/

/-- Everything a form can do: it answers a next state; that state is a fault's entry, which only a form
with a check of its own can take, or one that keeps the fault record and every part but pc and those
that `mayWrite` lists. -/
theorem exec_frame (i : Instr) (s : State) : ∃ t, exec i s = .next t ∧
    ((mayFault i = true ∧ ∃ c a, t = s.raise c a) ∨
      (t.fault = s.fault ∧ SameExcept (.pc :: mayWrite i) s t)) := by
  cases i
  case ret =>
    rcases execRet_cases s with ⟨-, h⟩ | ⟨-, h⟩
    · exact ⟨_, h, .inl ⟨rfl, _, _, rfl⟩⟩
    · exact ⟨_, h, .inr ⟨rfl, sameExcept_of_fields (by simp [mayWrite])⟩⟩
  case call nnn =>
    rcases execCall_cases nnn s with ⟨-, h⟩ | ⟨-, h⟩
    · exact ⟨_, h, .inl ⟨rfl, _, _, rfl⟩⟩
    · exact ⟨_, h, .inr ⟨rfl, sameExcept_of_fields (by simp [mayWrite])⟩⟩
  case drw x y n =>
    rcases execDrw_cases x y n s with ⟨a, -, h⟩ | ⟨-, h⟩
    · exact ⟨_, h, .inl ⟨rfl, _, _, rfl⟩⟩
    · exact ⟨_, h, .inr ⟨rfl, sameExcept_of_fields (by simp [mayWrite, State.drawSprite_eq])⟩⟩
  case loadRegs x =>
    rcases execLoadRegs_cases x s with ⟨a, -, h⟩ | ⟨-, h⟩
    · exact ⟨_, h, .inl ⟨rfl, _, _, rfl⟩⟩
    · exact ⟨_, h, .inr ⟨rfl, sameExcept_of_fields (by simp [mayWrite])⟩⟩
  case bcd x =>
    refine ⟨_, rfl, ?_⟩
    rcases s.storeAtI_cases (decimalDigits (s.getV x)) with ⟨a, -, h⟩ | ⟨-, h⟩ <;> rw [h]
    · exact .inl ⟨rfl, _, _, rfl⟩
    · exact .inr ⟨rfl, sameExcept_of_fields (by simp [mayWrite])⟩
  case storeRegs x =>
    refine ⟨_, rfl, ?_⟩
    rcases s.storeAtI_cases (s.regsUpTo x) with ⟨a, -, h⟩ | ⟨-, h⟩ <;> rw [h]
    · exact .inl ⟨rfl, _, _, rfl⟩
    · exact .inr ⟨rfl, sameExcept_of_fields (by simp [mayWrite])⟩
  case waitKey x =>
    exact ⟨_, rfl, .inr ⟨rfl, sameExcept_of_fields (by simp [mayWrite, State.takeKey])⟩⟩
  all_goals exact ⟨_, rfl, .inr ⟨rfl, sameExcept_of_fields (by simp [mayWrite])⟩⟩

/-- `exec_frame` for a state that exec is known to answer. -/
theorem exec_frame_of_next {i : Instr} {s t : State} (h : exec i s = .next t) :
    (mayFault i = true ∧ ∃ c a, t = s.raise c a) ∨
      (t.fault = s.fault ∧ SameExcept (.pc :: mayWrite i) s t) := by
  obtain ⟨t', h', hframe⟩ := exec_frame i s
  cases h'.symm.trans h
  exact hframe

theorem raise_frame (s : State) (c : Cause) (a : Nat) : SameExcept [.fault] s (s.raise c a) :=
  sameExcept_of_fields (by simp)

/-! ## VF (spec/10_state.md R32) -/

/-- VF after a form that writes V[x], for another x. -/
theorem State.getV_flag_setV {x : Reg} (hx : x ≠ flagReg) (s : State) (b : Byte) :
    (s.setV x b).getV flagReg = s.getV flagReg := by
  rw [State.getV_setV, if_neg hx.symm]

/-- VF after V0..V[x] took the bytes, for x other than F (spec/43_index_memory.md R227). -/
theorem getElem_flag_setRegsFrom {x : Reg} (hx : x ≠ flagReg) (v : Vector Byte 16) {bytes : List Byte}
    (hlen : bytes.length = x.val + 1) : (setRegsFrom v 0 bytes)[flagReg] = v[flagReg] := by
  have hlt : x.val < 15 := Fin.val_lt_last hx
  refine (getElem_setRegsFrom v 0 bytes 15 (by decide)).trans (dif_neg ?_)
  omega

/-- A form outside R32's list leaves VF: most because they write no V register at all, the others
because the V registers they write do not reach VF. -/
theorem exec_keeps_flag {i : Instr} {s t : State} (h : exec i s = .next t)
    (hi : mayWriteVF i = false) : t.getV flagReg = s.getV flagReg := by
  rcases exec_frame_of_next h with ⟨-, c, a, rfl⟩ | ⟨-, hframe⟩
  · rfl
  by_cases hv : Part.v ∈ mayWrite i
  case neg => exact hframe .v (by simp [hv]) flagReg
  cases i
  case loadRegs x =>
    rcases execLoadRegs_cases x s with ⟨a, -, h'⟩ | ⟨-, h'⟩ <;> cases h'.symm.trans h
    · rfl
    · exact getElem_flag_setRegsFrom (of_decide_eq_false hi) s.v (by simp)
  case waitKey x =>
    cases h
    cases s.keyAnswer with
    | none => rfl
    | some k => exact State.getV_flag_setV (of_decide_eq_false hi) s (byteOfKey k)
  case ldImm x _ | addImm x _ | rnd x _ | ldReg x _ | orReg x _ | andReg x _ | xorReg x _ |
      ldRegDt x =>
    cases h
    exact State.getV_flag_setV (of_decide_eq_false hi) _ _
  case addReg | subReg | shr | subnReg | shl | drw => cases hi
  all_goals simp [mayWrite] at hv

end Sys2Proof.Machine

open Sys2Proof.Machine

/-- Settles O23, from what a form can do and the frame of a fault's entry. -/
theorem instructionFrames : Obligations.InstructionFrames := by
  intro i s t h
  rcases exec_frame_of_next h with ⟨hfault, c, a, rfl⟩ | hframe
  · exact .inl ⟨hfault, rfl, raise_frame s c a⟩
  · exact .inr hframe

/-- Settles O24. -/
theorem onlyFlagFormsWriteVF : Obligations.OnlyFlagFormsWriteVF :=
  fun _ _ _ h hi => exec_keeps_flag h hi
end

section
/-! State, part 2: what a core step does not read: ST, and the opcode register that another step left
(spec/10_state.md R45, R49). -/

namespace Sys2Proof.Machine

/-! ## Two core steps side by side -/

/-- A core step whose fetch is out of range takes the fetch's fault (spec/20_memory.md R77). -/
theorem coreStep_raiseFetch {s : State} {a : Nat} (h : s.halted = false)
    (ha : firstOutOfRange s.pc.toNat 2 = some a) : coreStep s = .next (s.raiseFetch a) := by
  have hf : s.fetchOutOfRange = some a := ha
  unfold coreStep
  rw [if_neg (by simp [h]), hf]

/-- Two states that agree on the fault record, pc and memory take the same way through a core step, so a
relation holds of their next states when it holds of the two states, of their fetch faults and of what
they do with one fetched word. -/
theorem coreStep_lockstep {R : State → State → Prop} {s s' : State} (hfault : s'.fault = s.fault)
    (hpc : s'.pc = s.pc) (hmem : s'.mem = s.mem) (hidle : R s s')
    (hfetch : ∀ a, R (s.raiseFetch a) (s'.raiseFetch a))
    (hrun : ∀ w, ∃ t u, s.runWord w = .next t ∧ s'.runWord w = .next u ∧ R t u) :
    ∃ t u, coreStep s = .next t ∧ coreStep s' = .next u ∧ R t u := by
  have hhalted : s'.halted = s.halted := congrArg FaultRecord.valid hfault
  have hword : s'.fetchWord = s.fetchWord := by rw [State.fetchWord, hpc, hmem, State.fetchWord]
  cases h : s.halted with
  | true => exact ⟨s, s', coreStep_halted h, coreStep_halted (hhalted.trans h), hidle⟩
  | false =>
    cases ha : firstOutOfRange s.pc.toNat 2 with
    | some a =>
      exact ⟨_, _, coreStep_raiseFetch h ha, coreStep_raiseFetch (hhalted.trans h) (hpc ▸ ha),
        hfetch a⟩
    | none =>
      have hrange : s.pc.toNat + 2 ≤ Config.memSize :=
        (firstOutOfRange_eq_none.mp ha).resolve_left (by decide)
      rw [coreStep_runWord h hrange, coreStep_runWord (hhalted.trans h) (hpc ▸ hrange), hword]
      exact hrun _

/-- A fetched word is always answered by a next state (spec/60_exceptions.md R261; log 9). -/
theorem State.runWord_next (s : State) (w : Word) : ∃ t, s.runWord w = .next t := by
  unfold State.runWord
  cases decodeWord w with
  | error r => exact ⟨_, rfl⟩
  | ok i =>
    obtain ⟨t, h, -⟩ := exec_frame i (s.latch w)
    exact ⟨t, h⟩

/-! ## ST -/

/-- The state with another ST. -/
def State.withSt (s : State) (b : Byte) : State := { s with st := b }

theorem State.withSt_frame (s : State) (b : Byte) : SameExcept [.st] s (s.withSt b) :=
  sameExcept_of_fields (by simp [State.withSt])

/-- A store at I neither reads nor writes ST (spec/43_index_memory.md R226, R228). -/
theorem State.storeAtI_withSt (s : State) (b : Byte) (bytes : List Byte) :
    (s.withSt b).storeAtI bytes = (s.storeAtI bytes).withSt b := by
  dsimp only [State.storeAtI, State.effectiveAddr, State.withSt]
  cases firstOutOfRange (s.i.toNat + 0) bytes.length <;> rfl

/-- A form run with another ST does the same but for ST: its checks and its operands do not look at it.
ST ends as it was given, or, after FX18, as the form sets it (spec/44_input_timer.md R254). -/
theorem exec_withSt (i : Instr) (s : State) (b : Byte) :
    ∃ t c, exec i s = .next t ∧ exec i (s.withSt b) = .next (t.withSt c) := by
  cases i
  case ret =>
    by_cases h : s.sp = 0
    · exact ⟨_, b, if_pos h, if_pos h⟩
    · exact ⟨_, b, if_neg h, if_neg h⟩
  case call nnn =>
    by_cases h : s.sp.val = Config.stackCap - 1
    · exact ⟨_, b, if_pos h, if_pos h⟩
    · exact ⟨_, b, if_neg h, if_neg h⟩
  case drw x y n =>
    dsimp only [exec, execDrw, State.effectiveAddr, State.withSt]
    cases firstOutOfRange (s.i.toNat + 0) n <;> exact ⟨_, b, rfl, rfl⟩
  case loadRegs x =>
    dsimp only [exec, execLoadRegs, State.effectiveAddr, State.withSt]
    cases firstOutOfRange (s.i.toNat + 0) (x.val + 1) <;> exact ⟨_, b, rfl, rfl⟩
  case bcd x => exact ⟨_, b, rfl, congrArg _ (s.storeAtI_withSt b (decimalDigits (s.getV x)))⟩
  case storeRegs x => exact ⟨_, b, rfl, congrArg _ (s.storeAtI_withSt b (s.regsUpTo x))⟩
  all_goals exact ⟨_, _, rfl, rfl⟩

/-- One fetched word run with another ST does the same but for ST. -/
theorem State.runWord_withSt (s : State) (w : Word) (b : Byte) :
    ∃ t c, s.runWord w = .next t ∧ (s.withSt b).runWord w = .next (t.withSt c) := by
  unfold State.runWord
  cases decodeWord w with
  | error r => exact ⟨_, b, rfl, rfl⟩
  | ok i => exact exec_withSt i (s.latch w) b

/-! ## The opcode register -/

/-- The state with another word left in the opcode register. -/
def State.withOpcode (s : State) (w : Word) : State := { s with opcode := w }

theorem State.withOpcode_frame (s : State) (w : Word) : SameExcept [.opcode] s (s.withOpcode w) :=
  sameExcept_of_fields (by simp [State.withOpcode])

theorem SameExcept.refl (changed : List Part) (s : State) : SameExcept changed s s :=
  sameExcept_of_fields (by simp)

/-- A fetched word replaces whatever word was left in the opcode register before its form runs. -/
theorem State.runWord_withOpcode (s : State) (w stale : Word) :
    (s.withOpcode stale).runWord w = s.runWord w := rfl

end Sys2Proof.Machine

open Sys2Proof.Machine

/-- Settles O21: the two core steps go the same way, and one fetched word run with another ST does the
same but for ST. -/
theorem noInstructionReadsSt : Obligations.NoInstructionReadsSt := by
  intro s b
  refine coreStep_lockstep (s' := s.withSt b) rfl rfl rfl (s.withSt_frame b)
    (fun a => (s.raiseFetch a).withSt_frame b) fun w => ?_
  obtain ⟨t, c, h, h'⟩ := s.runWord_withSt w b
  exact ⟨t, _, h, h', t.withSt_frame c⟩

/-- Settles O22: a core step that fetches replaces the word another step left, and one that does not
fetch keeps it. -/
theorem noInstructionReadsStaleOpcode : Obligations.NoInstructionReadsStaleOpcode := by
  intro s stale
  refine coreStep_lockstep (s' := s.withOpcode stale) rfl rfl rfl (s.withOpcode_frame stale)
    (fun a => (s.raiseFetch a).withOpcode_frame stale) fun w => ?_
  obtain ⟨t, h⟩ := s.runWord_next w
  exact ⟨t, t, h, (s.runWord_withOpcode w stale).trans h, .refl _ t⟩
end

section
/-! State, part 3: the stack under a call and its return (spec/10_state.md R40 to R43). -/

namespace Sys2Proof.Machine

/-- A push that the stack has room for takes sp up by one (spec/10_state.md R41). -/
theorem State.val_sp_push {s : State} (h : s.sp.val < 15) (w : Word) :
    (s.push w).sp.val = s.sp.val + 1 := Fin.val_add_one_of_lt h

/-- A pop after a push gives sp back. -/
theorem State.sp_push_sub_one (s : State) (w : Word) : (s.push w).sp - 1 = s.sp :=
  add_sub_cancel_right s.sp 1

/-- The pushed word is at the new top (spec/10_state.md R42). -/
theorem State.stackAt_push_top (s : State) (w : Word) : (s.push w).stackAt (s.push w).sp = w :=
  (s.stackAt_push w _).trans (if_pos rfl)

end Sys2Proof.Machine

open Sys2Proof.Machine

/-- Settles O34, by what 2NNN can do and the stack after a push. -/
theorem callResult : Obligations.CallResult := by
  intro s nnn
  rcases execCall_cases nnn s with ⟨hsp, h⟩ | ⟨hsp, h⟩
  · rw [if_pos hsp]
    exact ⟨_, h, faultTaken_takeFault s .stackOverflow s.opcode rfl⟩
  · rw [if_neg (Nat.ne_of_lt hsp)]
    exact ⟨_, h, rfl, State.val_sp_push hsp s.pc, s.stackAt_push_top s.pc,
      fun k hk => (s.stackAt_push s.pc k).trans (if_neg hk), sameExcept_of_fields (by simp)⟩

/-- Settles O35: the call leaves its own address at the top, with sp not 0, so the return pops it. -/
theorem callThenReturn : Obligations.CallThenReturn := by
  intro s nnn hroom
  rcases execCall_cases nnn s with ⟨hfull, -⟩ | ⟨-, hcall⟩
  · exact absurd hfull (Nat.ne_of_lt hroom)
  refine ⟨_, hcall, fun u hsp hstack => ?_⟩
  have hsp : u.sp = (s.push s.pc).sp := hsp
  have htop : u.stackAt u.sp = s.pc := by
    rw [State.stackAt, hstack, hsp]
    exact s.stackAt_push_top s.pc
  rcases execRet_cases u with ⟨hempty, -⟩ | ⟨-, hret⟩
  · have hval := State.val_sp_push hroom s.pc
    rw [← hsp, hempty] at hval
    exact absurd hval (Nat.succ_ne_zero _).symm
  · refine ⟨_, hret, congrArg (· + 2) htop, ?_⟩
    rw [State.finish_sp, State.drop_sp, hsp, State.sp_push_sub_one]
end

section
/-! State, part 4: the framebuffer as the display sees it, and the fault record under every event
(spec/10_state.md R47, R51; spec/60_exceptions.md R263). -/

namespace Sys2Proof.Machine

/-- A core step that ends in a state that is not halted leaves the fault record (spec/10_state.md
R51). -/
theorem coreStep_keeps_fault {s t : State} (h : coreStep s = .next t) (ht : t.halted = false) :
    t.fault = s.fault := by
  rcases coreStep_cases s with ⟨-, hstep⟩ | ⟨-, a, -, hstep⟩ |
    ⟨-, -, ⟨r, -, hstep⟩ | ⟨i, -, hstep⟩⟩ <;> rw [hstep] at h
  · cases h
    rfl
  · cases h
    cases ht
  · cases h
    cases ht
  · rcases exec_frame_of_next h with ⟨-, c, a, rfl⟩ | ⟨hfault, -⟩
    · cases ht
    · exact hfault

/-- An event other than a core step and reset leaves the fault record (spec/20_memory.md R85,
spec/60_exceptions.md R275). -/
theorem react_keeps_fault {port : HaltedPort} {e : Event} {s t : State} (hcore : e ≠ .coreStep)
    (hreset : e ≠ .host .reset) (h : react port e s = .next t) : t.fault = s.fault := by
  cases e with
  | coreStep => exact absurd rfl hcore
  | tickDt =>
    cases h
    rfl
  | tickSt =>
    cases h
    rfl
  | host a => exact (hostAct_next (fun ha => hreset (ha ▸ rfl)) h).2

end Sys2Proof.Machine

open Sys2Proof.Machine

/-- Settles O32: element r * 64 + c of the flattened rows is in row r at column c, by division with
remainder. -/
theorem displayIsRowMajor : Obligations.DisplayIsRowMajor := by
  intro s r c
  have hindex : r.val * 64 + c.val < 32 * 64 := by omega
  have hrow : (r.val * 64 + c.val) / 64 = r.val := by omega
  have hcol : (r.val * 64 + c.val) % 64 = c.val := by omega
  refine ⟨Vector.length_toList, ?_⟩
  rw [State.display, Vector.getElem?_flatten, dif_pos hindex]
  simp only [hrow, hcol]
  rfl

/-- Settles O57: a core step that does not halt leaves the record, and every other event leaves the
record of a running core, so that it cannot halt. -/
theorem onlyFaultingStepWritesRecord : Obligations.OnlyFaultingStepWritesRecord := by
  intro port e s t hrun hreset h
  by_cases hcore : e = .coreStep
  · subst hcore
    exact ⟨coreStep_keeps_fault h, fun _ => rfl⟩
  · have hfault := react_keeps_fault hcore hreset h
    refine ⟨fun _ => hfault, fun ht => ?_⟩
    have hsame : t.halted = s.halted := congrArg FaultRecord.valid hfault
    simp [hsame, hrun] at ht
end

section
/-! Memory, part 1: memory's one form and the invariant under the machine's step (spec/20_memory.md R70,
R76; spec/60_exceptions.md R260; log 4). -/

namespace Sys2Proof.Machine

/-- The gap's ticks keep the invariant: they touch neither memory nor the fault record
(spec/60_exceptions.md R276). -/
theorem State.Inv.openGap {s : State} (hs : s.Inv) : s.openGap.Inv := hs

/-! ## Memories that read the same (log 4) -/

theorem Memory.read_cons_self (a : Nat) (x : Byte) (m : Memory) :
    Memory.read ((a, x) :: m) a = x := if_pos rfl

theorem Memory.read_cons_ne {a b : Nat} (h : b ≠ a) (x : Byte) (m : Memory) :
    Memory.read ((a, x) :: m) b = m.read b := if_neg h

/-- A cell below the first listed one holds its reset contents. -/
theorem Memory.read_before_head {lo a b : Nat} {x : Byte} {m : Memory}
    (h : Memory.wfFrom lo ((a, x) :: m) = true) (hb : b < a) :
    Memory.read ((a, x) :: m) b = Memory.unlisted b :=
  Memory.read_below (Memory.wfFrom_cons.mpr ⟨Nat.le_refl a, (Memory.wfFrom_cons.mp h).2⟩) hb

/-- The first listed cell does not hold its reset contents. -/
theorem Memory.read_head_ne {lo a : Nat} {x : Byte} {m : Memory}
    (h : Memory.wfFrom lo ((a, x) :: m) = true) :
    Memory.read ((a, x) :: m) a ≠ Memory.unlisted a := by
  obtain ⟨-, -, hx, -⟩ := Memory.wfFrom_cons.mp h
  rwa [Memory.read_cons_self]

/-- Of two memories that read alike at the first one's first listed cell, the second one's first listed
cell is not above it. -/
theorem Memory.head_le_head {lo a b : Nat} {x y : Byte} {m n : Memory}
    (hm : Memory.wfFrom lo ((a, x) :: m) = true) (hn : Memory.wfFrom lo ((b, y) :: n) = true)
    (hread : Memory.read ((a, x) :: m) a = Memory.read ((b, y) :: n) a) : b ≤ a :=
  Nat.le_of_not_lt fun hlt =>
    Memory.read_head_ne hm (hread.trans (Memory.read_before_head hn hlt))

/-- Memories with the same first listed cell that read the same have tails that read the same. -/
theorem Memory.read_tail_eq {a : Nat} {x : Byte} {m n : Memory}
    (hm : Memory.wfFrom (a + 1) m = true) (hn : Memory.wfFrom (a + 1) n = true)
    (hread : ∀ b, Memory.read ((a, x) :: m) b = Memory.read ((a, x) :: n) b) (b : Nat) :
    m.read b = n.read b := by
  by_cases hb : b = a
  · subst hb
    rw [Memory.read_below hm (Nat.lt_succ_self b), Memory.read_below hn (Nat.lt_succ_self b)]
  · rw [← Memory.read_cons_ne hb x m, hread, Memory.read_cons_ne hb]

/-- Memories in the one form from the same address on are equal when they read the same: their first
listed cells are the same cell, and so on down the tails. -/
theorem Memory.eq_of_read_eq {lo : Nat} {m n : Memory} (hm : Memory.wfFrom lo m = true)
    (hn : Memory.wfFrom lo n = true) (hread : ∀ a, m.read a = n.read a) : m = n := by
  induction m generalizing lo n with
  | nil =>
    cases n with
    | nil => rfl
    | cons c n => exact absurd (hread c.1).symm (Memory.read_head_ne hn)
  | cons c m ih =>
    obtain ⟨a, x⟩ := c
    cases n with
    | nil => exact absurd (hread a) (Memory.read_head_ne hm)
    | cons d n =>
      obtain ⟨b, y⟩ := d
      obtain rfl : a = b := Nat.le_antisymm (Memory.head_le_head hn hm (hread b).symm)
        (Memory.head_le_head hm hn (hread a))
      obtain rfl : x = y := by
        rw [← Memory.read_cons_self a x m, hread, Memory.read_cons_self]
      obtain ⟨-, -, -, hm'⟩ := Memory.wfFrom_cons.mp hm
      obtain ⟨-, -, -, hn'⟩ := Memory.wfFrom_cons.mp hn
      rw [ih hm' hn' (Memory.read_tail_eq hm' hn' hread)]

end Sys2Proof.Machine

open Sys2Proof.Machine

/-- Settles O18: the gap's ticks keep the invariant, and so does the core step after them. -/
theorem stepKeepsInvariant : Obligations.StepKeepsInvariant :=
  fun _ _ hs h => coreStep_keeps_inv hs.openGap h

/-- Settles O25, by induction on the listed cells. -/
theorem memoryFormIsUnique : Obligations.MemoryFormIsUnique :=
  fun _ _ => Memory.eq_of_read_eq
end

section
/-! Memory, part 2: the program load, the fetch that is out of range, and the fetch after a store
(spec/20_memory.md R77, R84, R88; spec/70_reset_and_hazards.md R313). -/

namespace Sys2Proof.Machine

/-- The range check of a two-byte access that is not wholly in memory reports the first address, or the
second one when only that does not exist (spec/20_memory.md R76). -/
theorem firstOutOfRange_two {a : Nat} (h : Config.memSize ≤ a + 1) :
    firstOutOfRange a 2 = some (if Config.memSize ≤ a then a else a + 1) := by
  rw [firstOutOfRange_eq_some]
  split_ifs <;> omega

/-- A load that fits places the program's bytes and changes nothing else, under both readings of the
halted port (spec/20_memory.md R84; log 16). -/
theorem hostChanges_load (s : State) {program : List Byte} (hwf : s.mem.wf = true)
    (hfits : Config.progBase + program.length ≤ Config.memSize) :
    HostChanges (.load program) s fun t =>
      (∀ k : Nat, k < program.length → program[k]? = some (t.mem.read (Config.progBase + k))) ∧
      MemSameOutside Config.progBase program.length s t ∧ SameExcept [.mem] s t := by
  refine hostChanges_of_legal (fun _ => rfl) hfits
    ⟨fun k hk => ?_, fun b hb => ?_, sameExcept_of_fields (by simp)⟩
  · rw [Memory.read_writeBytes_inside hwf hfits hk, List.getElem?_eq_getElem hk]
  · exact Memory.read_writeBytes_outside hwf (.inr hfits) hb

/-! ## FX55 in range (spec/43_index_memory.md R228) -/

/-- FX55 whose bytes are all in memory stores V0..V[x] at I and takes pc + 2. -/
theorem exec_storeRegs_of_fits {s : State} {x : Reg}
    (h : s.i.toNat + x.val + 1 ≤ Config.memSize) :
    exec (.storeRegs x) s =
      .next (State.finish { s with mem := s.mem.writeBytes s.i.toNat (s.regsUpTo x) } .next) := by
  rcases s.storeAtI_cases (s.regsUpTo x) with ⟨a, ha, -⟩ | ⟨-, hstore⟩
  · obtain ⟨-, hlast, hout, -⟩ := firstOutOfRange_eq_some.mp ha
    rw [State.length_regsUpTo] at hlast
    omega
  · exact congrArg _ hstore

/-- The byte at I + k after the store of V0..V[x] at I is V[k]. -/
theorem State.read_stored_regs {s : State} {x k : Reg} (hwf : s.mem.wf = true)
    (hfits : s.i.toNat + x.val + 1 ≤ Config.memSize) (hk : k ≤ x) :
    (s.mem.writeBytes s.i.toNat (s.regsUpTo x)).read (s.i.toNat + k.val) = s.getV k := by
  have hlen : k.val < (s.regsUpTo x).length := by
    rw [State.length_regsUpTo]
    exact Nat.lt_succ_of_le hk
  rw [Memory.read_writeBytes_inside hwf (by rwa [State.length_regsUpTo]) hlen,
    State.getElem_regsUpTo]

/-- A word put together from its bytes, as a number: big-endian (spec/20_memory.md R77). -/
theorem toNat_wordOfBytes (hi lo : Byte) : (wordOfBytes hi lo).toNat = hi.toNat * 256 + lo.toNat := by
  rw [wordOfBytes, BitVec.toNat_append, ← Nat.shiftLeft_add_eq_or_of_lt lo.isLt, Nat.shiftLeft_eq]

theorem State.toNat_fetchWord (s : State) : s.fetchWord.toNat =
    (s.mem.read s.pc.toNat).toNat * 256 + (s.mem.read (s.pc.toNat + 1)).toNat :=
  toNat_wordOfBytes _ _

end Sys2Proof.Machine

open Sys2Proof.Machine

/-- Settles O27: a program that fits is loaded by the read after a multi-byte write, one that does not
is refused by its limit. -/
theorem loadPlacesProgram : Obligations.LoadPlacesProgram := by
  intro s program hwf
  exact ⟨hostChanges_load s hwf, fun hlong =>
    hostRefuses_of_illegal (fun _ => rfl) (Nat.not_le_of_lt hlong)⟩

/-- Settles O51: after the store pc is I, where V0 and V1 now stand. -/
theorem nextFetchSeesStore : Obligations.NextFetchSeesStore := by
  intro s x hwf hx hi hfits
  refine ⟨_, exec_storeRegs_of_fits hfits, ?_⟩
  have hfirst := State.read_stored_regs hwf hfits (k := 0) (Fin.zero_le x)
  have hsecond := State.read_stored_regs hwf hfits (k := 1) hx
  refine (State.toNat_fetchWord _).trans ?_
  rw [State.finish_pc, State.finish_mem, PcOutcome.target, ← hi, ← hfirst, ← hsecond]
  rfl

/-- Settles O14, by the fetch's range check and the entry of its fault. -/
theorem fetchOutOfRangeFaults : Obligations.FetchOutOfRangeFaults := by
  intro s hrun hout
  have hreport := firstOutOfRange_two hout
  exact ⟨_, coreStep_raiseFetch hrun hreport,
    faultTaken_takeFault s .fetchOutOfRange 0 (toNat_reportedAddr hreport)⟩
end

section
/-! Encoding, part 1: the form whose fixed bits a word has is the form that the word decodes to, with the
word's fields as operands (spec/30_encoding.md R101 to R107). -/

namespace Sys2Proof

/-! ## The fixed bits of a form (R104, R106) -/

/-- The encoder's word has the fixed bits of its instruction's form. -/
theorem encode_and_formMask (i : Instr) : encode i &&& formMask i = formMatch i := by
  cases i with
  | cls => exact Laws.EncodesForm.cls
  | ret => exact Laws.EncodesForm.ret
  | jp nnn | call nnn | ldI nnn | jpV0 nnn => exact addrWord_and _ nnn
  | seImm x nn | sneImm x nn | ldImm x nn | addImm x nn | rnd x nn => exact regByteWord_and_op _ x nn
  | drw x y n => exact Laws.EncodesForm.drw x y n
  | seReg x y | sneReg x y | ldReg x y | orReg x y | andReg x y | xorReg x y | addReg x y | subReg x y
  | shr x y | subnReg x y | shl x y => exact regRegWord_and_sub _ _ x y
  | skp x | sknp x | ldRegDt x | waitKey x | ldDtReg x | ldStReg x | addI x | ldGlyph x | bcd x
  | storeRegs x | loadRegs x => exact regByteWord_and_sub _ x _

section
variable {w mask bits : Word} (h : w &&& mask = bits)
include h

/-- A word has the fixed OP of a mask that fixes OP. -/
theorem opOf_of_and (hmask : opOf mask = 0xF) : opOf w = opOf bits := by
  rw [← h, opOf, opOf, BitVec.extractLsb'_and, show mask.extractLsb' 12 4 = BitVec.allOnes 4 from hmask,
    BitVec.and_allOnes]

/-- A word has the fixed N of a mask that fixes N. -/
theorem nOf_of_and (hmask : nOf mask = 0xF) : nOf w = nOf bits := by
  rw [← h, nOf, nOf, BitVec.extractLsb'_and, show mask.extractLsb' 0 4 = BitVec.allOnes 4 from hmask,
    BitVec.and_allOnes]

/-- A word has the fixed NN of a mask that fixes NN. -/
theorem nnOf_of_and (hmask : nnOf mask = 0xFF) : nnOf w = nnOf bits := by
  rw [← h, nnOf, nnOf, BitVec.extractLsb'_and, show mask.extractLsb' 0 8 = BitVec.allOnes 8 from hmask,
    BitVec.and_allOnes]
end

/-! ## The instruction of a form with a word's fields as operands (R101, R103) -/

/-- The instruction of the same form whose operands are the fields of `w`. -/
def Instr.withFieldsOf (w : Word) : Instr → Instr
  | .cls => .cls
  | .ret => .ret
  | .jp _ => .jp (nnnOf w)
  | .call _ => .call (nnnOf w)
  | .seImm _ _ => .seImm (xOf w) (nnOf w)
  | .sneImm _ _ => .sneImm (xOf w) (nnOf w)
  | .seReg _ _ => .seReg (xOf w) (yOf w)
  | .ldImm _ _ => .ldImm (xOf w) (nnOf w)
  | .addImm _ _ => .addImm (xOf w) (nnOf w)
  | .ldReg _ _ => .ldReg (xOf w) (yOf w)
  | .orReg _ _ => .orReg (xOf w) (yOf w)
  | .andReg _ _ => .andReg (xOf w) (yOf w)
  | .xorReg _ _ => .xorReg (xOf w) (yOf w)
  | .addReg _ _ => .addReg (xOf w) (yOf w)
  | .subReg _ _ => .subReg (xOf w) (yOf w)
  | .shr _ _ => .shr (xOf w) (yOf w)
  | .subnReg _ _ => .subnReg (xOf w) (yOf w)
  | .shl _ _ => .shl (xOf w) (yOf w)
  | .sneReg _ _ => .sneReg (xOf w) (yOf w)
  | .ldI _ => .ldI (nnnOf w)
  | .jpV0 _ => .jpV0 (nnnOf w)
  | .rnd _ _ => .rnd (xOf w) (nnOf w)
  | .drw _ _ _ => .drw (xOf w) (yOf w) (nOf w).toNat
  | .skp _ => .skp (xOf w)
  | .sknp _ => .sknp (xOf w)
  | .ldRegDt _ => .ldRegDt (xOf w)
  | .waitKey _ => .waitKey (xOf w)
  | .ldDtReg _ => .ldDtReg (xOf w)
  | .ldStReg _ => .ldStReg (xOf w)
  | .addI _ => .addI (xOf w)
  | .ldGlyph _ => .ldGlyph (xOf w)
  | .bcd _ => .bcd (xOf w)
  | .storeRegs _ => .storeRegs (xOf w)
  | .loadRegs _ => .loadRegs (xOf w)

@[simp] theorem formMask_withFieldsOf (w : Word) (i : Instr) :
    formMask (i.withFieldsOf w) = formMask i := by cases i <;> rfl

@[simp] theorem formMatch_withFieldsOf (w : Word) (i : Instr) :
    formMatch (i.withFieldsOf w) = formMatch i := by cases i <;> rfl

/-- The fields of the encoder's word are the operands, when these fit their fields. -/
theorem withFieldsOf_encode {i : Instr} (h : i.WellFormed) : i.withFieldsOf (encode i) = i := by
  cases i with
  | jp nnn | call nnn | ldI nnn | jpV0 nnn =>
    simp only [Instr.withFieldsOf, encode, nnnOf_addrWord _ nnn h]
  | drw x y n =>
    simpa [Instr.withFieldsOf, encode] using of_decide_eq_true h
  | _ => simp [Instr.withFieldsOf, encode]

/-! ## What a word decodes to (R104, R105) -/

/-- A word with the fixed bits of a form decodes to that form, with the word's fields as operands. -/
theorem decodeWord_of_fits {w : Word} {i : Instr} (h : w &&& formMask i = formMatch i) :
    decodeWord w = .ok (i.withFieldsOf w) := by
  cases i <;> dsimp only [formMask, formMatch] at h
  case cls | ret =>
    obtain rfl := BitVec.and_allOnes.symm.trans h
    rfl
  case jp | call | seImm | sneImm | ldImm | addImm | ldI | jpV0 | rnd | drw =>
    rw [decodeWord, opOf_of_and h rfl]
    rfl
  case seReg | sneReg =>
    rw [decodeWord, opOf_of_and h rfl]
    exact if_pos (nOf_of_and h rfl)
  case ldReg | orReg | andReg | xorReg | addReg | subReg | shr | subnReg | shl =>
    rw [decodeWord, opOf_of_and h rfl]
    change decodeAlu w = _
    rw [decodeAlu, nOf_of_and h rfl]
    rfl
  case skp | sknp =>
    rw [decodeWord, opOf_of_and h rfl]
    change decodeKey w = _
    rw [decodeKey, nnOf_of_and h rfl]
    rfl
  case ldRegDt | waitKey | ldDtReg | ldStReg | addI | ldGlyph | bcd | storeRegs | loadRegs =>
    rw [decodeWord, opOf_of_and h rfl]
    change decodeMisc w = _
    rw [decodeMisc, nnOf_of_and h rfl]
    rfl

end Sys2Proof

open Sys2Proof

/-- Settles O7: the encoder's word has its form's fixed bits, so it decodes to that form with the word's
fields, which are the operands. -/
theorem decodeAfterEncode : Obligations.DecodeAfterEncode := by
  intro i hi
  rw [decodeWord_of_fits (encode_and_formMask i), withFieldsOf_encode hi]
end

section
/-! Encoding, part 2: what the decoder's answer says of the word: an instruction's word has lost no bit,
and the rejected words are those of R105's map (spec/30_encoding.md R104 to R107). -/

namespace Sys2Proof

variable {w : Word} {i : Instr}

/-- A word with a known low byte, put together again from its fields (R102, layout REG_SUB). -/
theorem regByteWord_of_nnOf {op : BitVec 4} {nn : Byte} (hop : opOf w = op) (hnn : nnOf w = nn) :
    regByteWord op (xOf w) nn = w := hnn ▸ regByteWord_fields hop

/-! ## A decoded word is its instruction's word, family by family -/

theorem encode_of_decodeFixed (h : decodeFixed w = .ok i) : i.WellFormed ∧ encode i = w := by
  unfold decodeFixed at h
  split_ifs at h with hcls hret <;> cases h
  · exact ⟨rfl, hcls.symm⟩
  · exact ⟨rfl, hret.symm⟩

theorem encode_of_decodeAlu (hop : opOf w = 0x8) (h : decodeAlu w = .ok i) :
    i.WellFormed ∧ encode i = w := by
  unfold decodeAlu at h
  split at h <;> cases h
  all_goals exact ⟨rfl, regRegWord_fields hop ‹_›⟩

theorem encode_of_decodeKey (hop : opOf w = 0xE) (h : decodeKey w = .ok i) :
    i.WellFormed ∧ encode i = w := by
  unfold decodeKey at h
  split at h <;> cases h
  all_goals exact ⟨rfl, regByteWord_of_nnOf hop ‹_›⟩

theorem encode_of_decodeMisc (hop : opOf w = 0xF) (h : decodeMisc w = .ok i) :
    i.WellFormed ∧ encode i = w := by
  unfold decodeMisc at h
  split at h <;> cases h
  all_goals exact ⟨rfl, regByteWord_of_nnOf hop ‹_›⟩

/-- The dispatch on OP: its layout's fields are the whole word (R102, R104). -/
theorem encode_of_decodeWord (h : decodeWord w = .ok i) : i.WellFormed ∧ encode i = w := by
  unfold decodeWord at h
  split at h
  case h_1 => exact encode_of_decodeFixed h
  case h_9 hop => exact encode_of_decodeAlu hop h
  case h_15 hop => exact encode_of_decodeKey hop h
  case h_16 =>
    have hop : opOf w = 0xF := by
      simp only [imp_false, BitVec.toNat_eq, BitVec.reduceToNat] at *
      omega
    exact encode_of_decodeMisc hop h
  case h_2 hop | h_3 hop | h_11 hop | h_12 hop =>
    cases h
    exact ⟨addressFits_nnnOf w, addrWord_fields hop⟩
  case h_4 hop | h_5 hop | h_7 hop | h_8 hop | h_13 hop =>
    cases h
    exact ⟨rfl, regByteWord_fields hop⟩
  case h_6 hop | h_10 hop =>
    split_ifs at h with hn
    cases h
    exact ⟨rfl, regRegWord_fields hop hn⟩
  case h_14 hop =>
    cases h
    exact ⟨decide_eq_true (nOf w).isLt, regRegWord_fields hop (by simp)⟩

/-! ## The words that each family rejects (R105) -/

theorem decodeFixed_eq_error : decodeFixed w = .error (.unknownOpcode w) ↔
    w.toNat ≠ 0x00E0 ∧ w.toNat ≠ 0x00EE := by
  unfold decodeFixed
  split_ifs with hcls hret
  · simp [hcls]
  · simp [hret]
  · exact iff_of_true rfl ⟨BitVec.toNat_ne_iff_ne.mpr hcls, BitVec.toNat_ne_iff_ne.mpr hret⟩

theorem decodeAlu_eq_error : decodeAlu w = .error (.unknownOpcode w) ↔
    w.toNat % 16 ∉ [0, 1, 2, 3, 4, 5, 6, 7, 0xE] := by
  rw [← toNat_nOf]
  unfold decodeAlu
  split
  case h_10 => simp_all [BitVec.toNat_eq]
  all_goals simp [*]

theorem decodeKey_eq_error : decodeKey w = .error (.unknownOpcode w) ↔
    w.toNat % 256 ∉ [0x9E, 0xA1] := by
  rw [← toNat_nnOf]
  unfold decodeKey
  split
  case h_3 => simp_all [BitVec.toNat_eq]
  all_goals simp [*]

theorem decodeMisc_eq_error : decodeMisc w = .error (.unknownOpcode w) ↔
    w.toNat % 256 ∉ [0x07, 0x0A, 0x15, 0x18, 0x1E, 0x29, 0x33, 0x55, 0x65] := by
  rw [← toNat_nnOf]
  unfold decodeMisc
  split
  case h_10 => simp_all [BitVec.toNat_eq]
  all_goals simp [*]

end Sys2Proof

open Sys2Proof

/-- Settles O8, by the dispatch on OP and each layout's fields put together again. -/
theorem encodeAfterDecode : Obligations.EncodeAfterDecode :=
  fun _ _ => encode_of_decodeWord

/-- Settles O9: a decoded word is its instruction's word, which has the form's fixed bits; and the form
whose fixed bits a word has is the form it decodes to. -/
theorem decodeByMaskAndMatch : Obligations.DecodeByMaskAndMatch := by
  refine ⟨fun w i h => ?_, fun w i h =>
    ⟨_, decodeWord_of_fits h, formMask_withFieldsOf w i, formMatch_withFieldsOf w i⟩⟩
  obtain ⟨-, rfl⟩ := encode_of_decodeWord h
  exact encode_and_formMask i

/-- Settles O10, by the dispatch on OP: families 0, 8, E and F reject the words named above, families 5
and 9 those with N not 0, and the other values of OP none. -/
theorem unknownWords : Obligations.UnknownWords := by
  intro w
  rw [← toNat_opOf w]
  unfold decodeWord
  split
  case h_1 hop => simp [hop, decodeFixed_eq_error]
  case h_9 hop => simp [hop, decodeAlu_eq_error]
  case h_15 hop => simp [hop, decodeKey_eq_error]
  case h_16 =>
    have hop : opOf w = 0xF := by
      simp only [imp_false, BitVec.toNat_eq, BitVec.reduceToNat] at *
      omega
    simp [hop, decodeMisc_eq_error]
  case h_6 hop | h_10 hop =>
    rw [← toNat_nOf]
    split_ifs with hn
    · simp [hop, hn]
    · simpa [hop, BitVec.toNat_eq] using hn
  case h_2 hop | h_3 hop | h_4 hop | h_5 hop | h_7 hop | h_8 hop | h_11 hop | h_12 hop | h_13 hop
  | h_14 hop => simp [hop]

/-- Settles O6, by evaluating the decoder on each word. -/
theorem wordsDecodeAsWritten : Obligations.WordsDecodeAsWritten := by
  unfold Obligations.WordsDecodeAsWritten
  decide
end

section
/-! Encoding, part 3: the core step on the fetched word (spec/30_encoding.md R107, R120). -/

namespace Sys2Proof.Machine

/-- A word that selects a form runs that form, with the word latched (R104, R120). -/
theorem State.runWord_of_ok {w : Word} {i : Instr} (s : State) (h : decodeWord w = .ok i) :
    s.runWord w = exec i (s.latch w) := by rw [State.runWord, h]

/-- A word that selects no form takes the UnknownOpcode fault, with the word latched (R107). -/
theorem State.runWord_of_error {w : Word} {r : Reject} (s : State) (h : decodeWord w = .error r) :
    s.runWord w = .next ((s.latch w).raise .unknownOpcode 0) := by rw [State.runWord, h]

end Sys2Proof.Machine

open Sys2Proof Sys2Proof.Machine

/-- Settles O11: the gap's ticks leave the fault record, pc and memory, so the core step after them
fetches the two bytes at pc and runs the form they select. -/
theorem stepRunsDecodedInstruction : Obligations.StepRunsDecodedInstruction := by
  intro s w i hrun hpc hword hdecode
  obtain rfl : w = s.openGap.fetchWord :=
    BitVec.eq_of_toNat_eq (hword.trans (State.toNat_fetchWord s).symm)
  have hstep : step s = s.openGap.runWord s.openGap.fetchWord :=
    coreStep_runWord (s := s.openGap) hrun hpc
  exact ⟨_, hstep.trans (s.openGap.runWord_of_ok hdecode), rfl, sameExcept_of_fields (by simp),
    s.gapAnswer, toNat_tickTimes _ _, toNat_tickTimes _ _⟩

/-- Settles O13, by the core step on a word that selects no form and the frame of a fault. -/
theorem unknownOpcodeFaults : Obligations.UnknownOpcodeFaults := by
  intro s hrun hpc hdecode
  exact ⟨_, (coreStep_runWord hrun hpc).trans (s.runWord_of_error hdecode), rfl, rfl,
    sameExcept_of_fields (by simp)⟩
end

section
/-! Display: what 00E0 and DXYN leave in the framebuffer and in VF (spec/40_display.md R130 to R133). -/

namespace Sys2Proof.Machine

/-! ## The sprite in memory (R131, R132) -/

/-- Bit 7 - j of a byte is the pixel of a sprite row at column offset j (R132). -/
theorem spriteBit_eq_getLsbD (b : Byte) {j : Nat} (hj : j < 8) :
    spriteBit b j = b.getLsbD (7 - j) := by
  simp [spriteBit, BitVec.getMsbD, hj]

/-- The sprite drawn from the n bytes at I covers the pixels on which its set bits fall. -/
theorem spriteCovers_iff_spriteFallsOn {s : State} {x y : Reg} {n : Nat} {r : Fin 32} {c : Fin 64} :
    SpriteCovers (s.getV x).toNat (s.getV y).toNat (s.mem.readBytes s.i.toNat n) r c ↔
      SpriteFallsOn s x y n r c := by
  constructor
  · rintro ⟨k, hk, hr, j, -, hj, hc, hbit⟩
    rw [Nat.zero_add] at hj
    rw [Memory.getElem_readBytes, spriteBit_eq_getLsbD _ hj] at hbit
    rw [Memory.length_readBytes] at hk
    exact ⟨k, j, hk, hj, congrArg Fin.val hr, congrArg Fin.val hc, hbit⟩
  · rintro ⟨k, j, hk, hj, hr, hc, hbit⟩
    refine ⟨k, by rwa [Memory.length_readBytes], Fin.ext hr, j, Nat.zero_le j, by omega,
      Fin.ext hc, ?_⟩
    rwa [Memory.getElem_readBytes, spriteBit_eq_getLsbD _ hj]

/-! ## The state after a draw (R133) -/

/-- The state after DXYN when every sprite byte is in memory. -/
def State.drawn (s : State) (x y : Reg) (n : Nat) : State :=
  (s.drawSprite x y (s.mem.readBytes s.i.toNat n)).finish .next

/-- DXYN whose sprite bytes are all in memory draws them and takes pc + 2. -/
theorem exec_drw_of_fits {s : State} {n : Nat} (x y : Reg)
    (hfits : n = 0 ∨ s.i.toNat + n ≤ Config.memSize) :
    exec (.drw x y n) s = .next (s.drawn x y n) := by
  rcases execDrw_cases x y n s with ⟨a, ha, -⟩ | ⟨-, h⟩
  · rw [firstOutOfRange_eq_none.mpr hfits] at ha
    cases ha
  · exact h

/-- DXYN with a sprite byte outside memory faults at the first such address (spec/20_memory.md R76). -/
theorem exec_drw_of_not_fits {s : State} {n : Nat} (x y : Reg)
    (hout : ¬ (n = 0 ∨ s.i.toNat + n ≤ Config.memSize)) :
    ∃ t, exec (.drw x y n) s = .next t ∧
      FaultTaken s t .loadOutOfRange s.opcode (max s.i.toNat Config.memSize) := by
  rcases execDrw_cases x y n s with ⟨a, ha, h⟩ | ⟨hfits, -⟩
  · obtain ⟨hfirst, -, hmem, hlowest⟩ := firstOutOfRange_eq_some.mp ha
    obtain rfl : a = max s.i.toNat Config.memSize := by omega
    exact ⟨_, h, faultTaken_takeFault s .loadOutOfRange s.opcode (toNat_reportedAddr ha)⟩
  · exact absurd hfits hout

section

variable (s : State) (x y : Reg) (n : Nat)

/-- A draw leaves every part but the framebuffer, the V registers and pc. -/
theorem State.drawn_frame : SameExcept [.fb, .v, .pc] s (s.drawn x y n) :=
  sameExcept_of_fields (by simp [State.drawn, State.drawSprite_eq])

/-- A draw leaves every V register but VF. -/
theorem State.getV_drawn {r : Reg} (hr : r ≠ flagReg) : (s.drawn x y n).getV r = s.getV r :=
  (State.getV_setVF _ r _).trans (if_neg hr)

/-- The first draw leaves the bytes at I and both coordinates, so the sprite's set bits fall on the same
pixels again, where neither coordinate is VF. -/
theorem State.spriteFallsOn_drawn {x y : Reg} (hx : x ≠ flagReg) (hy : y ≠ flagReg) (r : Fin 32)
    (c : Fin 64) : SpriteFallsOn (s.drawn x y n) x y n r c ↔ SpriteFallsOn s x y n r c := by
  rw [SpriteFallsOn, s.getV_drawn x y n hx, s.getV_drawn x y n hy]
  rfl

variable {n} (hn : n ≤ 32)
include hn

/-- A pixel after a draw: a set sprite bit that falls on it flips it, and otherwise it stays (R133). -/
theorem State.pixel_drawn (r : Fin 32) (c : Fin 64) : (s.drawn x y n).fb.pixel r c = true ↔
    (s.fb.pixel r c = true ↔ ¬ SpriteFallsOn s x y n r c) := by
  rw [← spriteCovers_iff_spriteFallsOn]
  exact Canvas.pixel_composeSprite ⟨s.fb, false⟩ _ _ _ r c (by rwa [Memory.length_readBytes])

theorem State.pixel_drawn_of_falls {r : Fin 32} {c : Fin 64} (h : SpriteFallsOn s x y n r c) :
    (s.drawn x y n).fb.pixel r c = !s.fb.pixel r c := by
  rw [Bool.eq_iff_iff, s.pixel_drawn x y hn]
  simp [h]

theorem State.pixel_drawn_of_not_falls {r : Fin 32} {c : Fin 64} (h : ¬ SpriteFallsOn s x y n r c) :
    (s.drawn x y n).fb.pixel r c = s.fb.pixel r c := by
  rw [Bool.eq_iff_iff, s.pixel_drawn x y hn]
  simp [h]

/-- VF after a draw is the flag of a hit: whether a set sprite bit fell on a pixel that was 1 (R133). -/
theorem State.getV_flag_drawn : ∃ hit : Bool, (s.drawn x y n).getV flagReg = flagByte hit ∧
    (hit = true ↔ ∃ r c, SpriteFallsOn s x y n r c ∧ s.fb.pixel r c = true) := by
  refine ⟨_, State.getV_setV_same _ flagReg _, ?_⟩
  simp only [← spriteCovers_iff_spriteFallsOn]
  refine (Canvas.hit_composeSprite ⟨s.fb, false⟩ _ _ _ (by rwa [Memory.length_readBytes])).trans ?_
  exact or_iff_right Bool.false_ne_true

end

end Sys2Proof.Machine

open Sys2Proof.Machine

/-- Settles O29, by the cleared framebuffer's pixels and the frame of 00E0. -/
theorem clearScreenResult : Obligations.ClearScreenResult :=
  fun _ => ⟨_, rfl, Frame.pixel_clear, rfl, sameExcept_of_fields (by simp)⟩

/-- Settles O30, by the range check: the fault at the first address out of range, or the draw pixel by
pixel. -/
theorem drawSpriteResult : Obligations.DrawSpriteResult := by
  intro s x y n hn
  have hrows : n ≤ 32 := by omega
  split_ifs with hfits
  · obtain ⟨hit, hflag, hhit⟩ := s.getV_flag_drawn x y hrows
    refine ⟨_, exec_drw_of_fits x y hfits, fun _ _ => s.pixel_drawn_of_falls x y hrows,
      fun _ _ => s.pixel_drawn_of_not_falls x y hrows, fun h => ?_, fun h => ?_,
      fun r hr => s.getV_drawn x y n (List.ne_of_not_mem_cons hr), rfl, s.drawn_frame x y n⟩
    · rw [hflag, hhit.mpr h]
      rfl
    · rw [hflag, Bool.eq_false_iff.mpr (mt hhit.mp h)]
      rfl
  · exact exec_drw_of_not_fits x y hfits

/-- Settles O31: the second draw flips the pixels that the first one flipped. -/
theorem drawTwiceRestoresFramebuffer : Obligations.DrawTwiceRestoresFramebuffer := by
  intro s x y n hn hx hy hfits
  have hrows : n ≤ 32 := by omega
  refine ⟨_, _, exec_drw_of_fits x y hfits, exec_drw_of_fits x y hfits, fun r c => ?_⟩
  have hagain := s.spriteFallsOn_drawn (n := n) hx hy r c
  by_cases h : SpriteFallsOn s x y n r c
  · rw [State.pixel_drawn_of_falls _ x y hrows (hagain.mpr h), s.pixel_drawn_of_falls x y hrows h,
      Bool.not_not]
  · rw [State.pixel_drawn_of_not_falls _ x y hrows (mt hagain.mp h),
      s.pixel_drawn_of_not_falls x y hrows h]
end

section
/-! Control transfer: where 00EE, 1NNN, BNNN and the conditional skips leave pc (spec/41_control.md
R150, R152, R153, R155 to R160). -/

namespace Sys2Proof.Machine

/-! ## The pc outcome -/

/-- The end of a form's execution changes no part but pc (spec/30_encoding.md R120). -/
theorem State.finish_frame (s : State) (o : PcOutcome) : SameExcept [.pc] s (s.finish o) :=
  sameExcept_of_fields (by simp)

/-- A skip on a condition c (R150). -/
theorem PcOutcome.target_skip (pc : Word) (c : Prop) [Decidable c] :
    PcOutcome.target pc (.skip (decide c)) = if c then pc + 4 else pc + 2 := by
  simp [PcOutcome.target]

/-- A skip on the failure of c, as 4XNN and 9XY0 do (R157, R159). -/
theorem PcOutcome.target_skip_not (pc : Word) (c : Prop) [Decidable c] :
    PcOutcome.target pc (.skip (decide ¬ c)) = if c then pc + 2 else pc + 4 :=
  (PcOutcome.target_skip pc (¬ c)).trans (ite_not c _ _)

/-! ## The operands of a transfer -/

/-- A pop from a stack that is not empty takes sp down by one (spec/10_state.md R41). -/
theorem State.val_sp_drop {s : State} (h : s.sp ≠ 0) : s.drop.sp.val + 1 = s.sp.val := by
  rw [State.drop_sp, Fin.val_sub_one_of_ne_zero h]
  exact Nat.succ_pred_eq_of_ne_zero (Fin.val_ne_zero_iff.mpr h)

/-- The target of BNNN never wraps: a byte and a 12-bit address add up to less than 65536 (R160). -/
theorem State.toNat_indexedTarget (s : State) {nnn : Word} (h : addressFits nnn = true) :
    (s.indexedTarget nnn).toNat = (s.getV 0).toNat + nnn.toNat := by
  have hnnn : nnn.toNat < 0x1000 := of_decide_eq_true h
  have hv0 := (s.getV 0).isLt
  rw [State.indexedTarget, zext16, BitVec.toNat_add, BitVec.toNat_setWidth]
  omega

end Sys2Proof.Machine

open Sys2Proof.Machine

/-- Settles O33, by what 00EE can do: the fault on an empty stack, or the pop. -/
theorem returnResult : Obligations.ReturnResult := by
  intro s
  rcases execRet_cases s with ⟨hsp, h⟩ | ⟨hsp, h⟩
  · rw [if_pos hsp]
    exact ⟨_, h, faultTaken_takeFault s .stackUnderflow s.opcode rfl⟩
  · rw [if_neg hsp]
    exact ⟨_, h, rfl, State.val_sp_drop hsp, sameExcept_of_fields (by simp)⟩

/-- Settles O36, by the jump outcome of pc. -/
theorem jumpResult : Obligations.JumpResult :=
  fun s _ => ⟨_, rfl, rfl, s.finish_frame _⟩

/-- Settles O37, by the target's sum as numbers. -/
theorem indexedJumpResult : Obligations.IndexedJumpResult :=
  fun s _ hfits => ⟨_, rfl, s.toNat_indexedTarget hfits, s.finish_frame _⟩

/-- Settles O38: 3XNN and 5XY0 skip on an equality, 4XNN and 9XY0 on its failure. -/
theorem skipResults : Obligations.SkipResults :=
  fun s _ _ _ => ⟨⟨_, rfl, PcOutcome.target_skip s.pc _, s.finish_frame _⟩,
    ⟨_, rfl, PcOutcome.target_skip_not s.pc _, s.finish_frame _⟩,
    ⟨_, rfl, PcOutcome.target_skip s.pc _, s.finish_frame _⟩,
    ⟨_, rfl, PcOutcome.target_skip_not s.pc _, s.finish_frame _⟩⟩
end

section
/-! ALU: what 6XNN, 7XNN, the 8XYN forms and CXNN leave in V[X] and in VF (spec/42_alu.md R180 to
R196). -/

namespace Sys2Proof.Machine

/-! ## One register written (R183 to R189, R196) -/

theorem State.setV_regs (s : State) (x : Reg) (b : Byte) : RegsSameExcept [x] s (s.setV x b) :=
  fun r hr => (s.getV_setV x r b).trans (if_neg (List.ne_of_not_mem_cons hr))

/-- The end of a form that writes only V[x]. -/
theorem State.setV_finish_result (s : State) (x : Reg) (b : Byte) :
    ((s.setV x b).finish .next).getV x = b ∧
      RegsSameExcept [x] s ((s.setV x b).finish .next) ∧
      ((s.setV x b).finish .next).pc = s.pc + 2 ∧
      SameExcept [.v, .pc] s ((s.setV x b).finish .next) :=
  ⟨s.getV_setV_same x b, s.setV_regs x b, rfl, sameExcept_of_fields (by simp)⟩

/-! ## V[x] and VF written, in either order (R181) -/

/-- A write of V[x] and a write of VF, in either order, leave every other V register. -/
theorem RegsSameExcept.of_two_writes {s u t : State} {x y : Reg} {changed : List Reg}
    (hsu : RegsSameExcept [x] s u) (hut : RegsSameExcept [y] u t) (hx : x ∈ changed)
    (hy : y ∈ changed) : RegsSameExcept changed s t := fun r hr =>
  have hrx : r ∉ [x] := fun h => hr (List.mem_singleton.mp h ▸ hx)
  have hry : r ∉ [y] := fun h => hr (List.mem_singleton.mp h ▸ hy)
  (hut r hry).trans (hsu r hrx)

/-- A form that writes V[x] and then its flag: with x = F the flag is what stays. -/
theorem completes_of_result_then_flag {i : Instr} {s : State} {x : Reg} {b f flag : Byte} {n : Nat}
    (hexec : exec i s = .next (((s.setV x b).setVF f).finish .next)) (hflag : f = flag)
    (hresult : b.toNat = n) :
    Completes i s fun t => t.getV 0xF = flag ∧ (x ≠ 0xF → (t.getV x).toNat = n) ∧
      RegsSameExcept [x, 0xF] s t ∧ t.pc = s.pc + 2 ∧ SameExcept [.v, .pc] s t := by
  subst hflag hresult
  refine ⟨_, hexec, State.getV_setV_same _ flagReg f, fun hx => ?_,
    (s.setV_regs x b).of_two_writes (State.setV_regs _ flagReg f) (by simp) (by simp), rfl,
    sameExcept_of_fields (by simp)⟩
  rw [State.getV_finish, State.getV_setVF, if_neg hx, State.getV_setV_same]

/-- A form that writes its flag and then V[x], by the operation `op` from the V[x] that the flag's write
left, as the shifts do (R193, R195): with x = F the operation acts on the flag. -/
theorem completes_of_flag_then_result {i : Instr} {s : State} {x : Reg} {f : Byte}
    {op : Byte → Byte} {flag n : Nat} {FlagRegPost : Byte → Prop}
    (hexec : exec i s = .next (((s.setVF f).setV x (op ((s.setVF f).getV x))).finish .next))
    (hflag : f.toNat = flag) (hresult : (op (s.getV x)).toNat = n)
    (hflagReg : FlagRegPost (op f)) :
    Completes i s fun t => (x ≠ 0xF → (t.getV 0xF).toNat = flag ∧ (t.getV x).toNat = n) ∧
      (x = 0xF → FlagRegPost (t.getV 0xF)) ∧
      RegsSameExcept [x, 0xF] s t ∧ t.pc = s.pc + 2 ∧ SameExcept [.v, .pc] s t := by
  refine ⟨_, hexec, fun hx => ⟨?_, ?_⟩, fun hx => ?_,
    (s.setV_regs flagReg f).of_two_writes (State.setV_regs _ x _) (by simp) (by simp), rfl,
    sameExcept_of_fields (by simp)⟩
  · rw [State.getV_finish, State.getV_flag_setV hx, State.getV_setVF, if_pos rfl, hflag]
  · rw [State.getV_finish, State.getV_setV_same, State.getV_setVF, if_neg hx, hresult]
  · rw [State.getV_finish, hx, State.getV_setV_same, State.getV_setVF, if_pos rfl]
    exact hflagReg

/-! ## The results as numbers (R180, R182, R192) -/

/-- A difference mod 256. -/
theorem toNat_sub_byte (a b : Byte) : (a - b).toNat = (a.toNat + 256 - b.toNat) % 256 := by
  have := b.isLt
  rw [BitVec.toNat_sub]
  omega

theorem toNat_shiftRight_one (a : Byte) : (a >>> 1).toNat = a.toNat / 2 := by
  rw [BitVec.toNat_ushiftRight, Nat.shiftRight_one]

theorem toNat_shiftLeft_one (a : Byte) : (a <<< 1).toNat = a.toNat * 2 % 256 := by
  rw [BitVec.toNat_shiftLeft, Nat.shiftLeft_eq]

/-- The bit that 8XY6 shifts out is shifted out again when the flag is its own operand (R181). -/
theorem shiftedOutRight_shiftRight_one (a : Byte) : shiftedOutRight a >>> 1 = 0 := by
  apply BitVec.eq_of_toNat_eq
  rw [toNat_shiftRight_one, toNat_shiftedOutRight]
  exact Nat.div_eq_of_lt (Nat.mod_lt _ two_pos)

/-- The bit that 8XYE shifts out moves to bit 1 when the flag is its own operand (R181). -/
theorem toNat_shiftedOutLeft_shiftLeft_one (a : Byte) :
    (shiftedOutLeft a <<< 1).toNat = 2 * (a.toNat / 128) := by
  have := a.isLt
  rw [toNat_shiftLeft_one, toNat_shiftedOutLeft]
  omega

end Sys2Proof.Machine

open Sys2Proof Sys2Proof.Machine

/-- Settles O43: both differences are written before their flag. -/
theorem subtractResults : Obligations.SubtractResults := fun _ _ _ =>
  ⟨completes_of_result_then_flag rfl (notBorrow_eq _ _) (toNat_sub_byte _ _),
    completes_of_result_then_flag rfl (notBorrow_eq _ _) (toNat_sub_byte _ _)⟩

/-- Settles O44: both shifts write their flag first, so with X = F they shift the flag. -/
theorem shiftResults : Obligations.ShiftResults := fun _ _ _ =>
  ⟨completes_of_flag_then_result (op := (· >>> 1)) (FlagRegPost := (· = 0)) rfl
      (toNat_shiftedOutRight _) (toNat_shiftRight_one _) (shiftedOutRight_shiftRight_one _),
    completes_of_flag_then_result (op := (· <<< 1)) (FlagRegPost := fun b => b.toNat = _) rfl
      (toNat_shiftedOutLeft _) (toNat_shiftLeft_one _) (toNat_shiftedOutLeft_shiftLeft_one _)⟩

/-- Settles O40: both forms write only V[X], the second one the sum mod 256. -/
theorem immediateResults : Obligations.ImmediateResults := by
  intro s x nn
  obtain ⟨hsum, hframe⟩ := s.setV_finish_result x (s.getV x + nn)
  refine ⟨⟨_, rfl, s.setV_finish_result x nn⟩, _, rfl, ?_, hframe⟩
  rw [hsum, BitVec.toNat_add]

/-- Settles O41: the four forms write only V[X]. -/
theorem moveAndLogicResults : Obligations.MoveAndLogicResults := fun s x _ =>
  ⟨⟨_, rfl, s.setV_finish_result x _⟩, ⟨_, rfl, s.setV_finish_result x _⟩,
    ⟨_, rfl, s.setV_finish_result x _⟩, ⟨_, rfl, s.setV_finish_result x _⟩⟩

/-- Settles O42: the sum is written before the carry. -/
theorem addWithCarryResult : Obligations.AddWithCarryResult := fun _ _ _ =>
  completes_of_result_then_flag rfl (carryOfAdd_eq _ _) (BitVec.toNat_add _ _)

/-- Settles O45: the draw changes the random source only and the write V[X] only; a byte lined up in the
source is the byte drawn. -/
theorem randomResult : Obligations.RandomResult := by
  refine ⟨fun s x nn => ?_, fun s x nn r => ?_⟩
  · obtain ⟨hv, hregs, hpc, -⟩ := s.randomDrawn.setV_finish_result x (s.randomByte &&& nn)
    exact ⟨_, rfl, ⟨s.randomByte, hv⟩, hregs, hpc, sameExcept_of_fields (by simp)⟩
  · exact ⟨⟨[r], 0⟩, _, rfl, State.getV_setV_same _ x _⟩
end

section
/-! Index register and memory: what ANNN, FX1E and FX29 leave in I, and what FX33, FX55 and FX65 move
between memory at I and the V registers (spec/43_index_memory.md R220 to R230). -/

namespace Sys2Proof.Machine

/-! ## The range check at I (spec/20_memory.md R75, R76) -/

/-- The fault of an access at I that is not wholly in memory: its address is I itself when I is outside
memory, and MEM_SIZE otherwise. -/
theorem faultTaken_raise_at_i {s : State} {n a : Nat} (c : Cause)
    (h : firstOutOfRange s.i.toNat n = some a) :
    FaultTaken s (s.raise c a) c s.opcode (max s.i.toNat Config.memSize) := by
  obtain ⟨hfirst, -, hout, hlowest⟩ := firstOutOfRange_eq_some.mp h
  obtain rfl : a = max s.i.toNat Config.memSize := by omega
  exact faultTaken_takeFault s c s.opcode (toNat_reportedAddr h)

/-! ## Bytes stored at I (FX33, FX55; R226, R228) -/

theorem State.storeAtI_of_not_fits {s : State} {bytes : List Byte}
    (hout : ¬ s.i.toNat + bytes.length ≤ Config.memSize) (hbytes : bytes ≠ []) :
    FaultTaken s (s.storeAtI bytes) .storeOutOfRange s.opcode (max s.i.toNat Config.memSize) := by
  rcases s.storeAtI_cases bytes with ⟨a, ha, h⟩ | ⟨hfits, -⟩
  · rw [h]
    exact faultTaken_raise_at_i .storeOutOfRange ha
  · exact absurd hfits (not_or.mpr ⟨hbytes, hout⟩)

section

variable {s : State} {bytes : List Byte} (hfits : s.i.toNat + bytes.length ≤ Config.memSize)
include hfits

theorem State.storeAtI_of_fits : s.storeAtI bytes =
    State.finish { s with mem := s.mem.writeBytes s.i.toNat bytes } .next := by
  rcases s.storeAtI_cases bytes with ⟨a, ha, -⟩ | ⟨-, h⟩
  · rw [firstOutOfRange_eq_none.mpr (.inr hfits)] at ha
    cases ha
  · exact h

variable (hwf : s.mem.wf = true)
include hwf

theorem State.read_storeAtI {k : Nat} (hk : k < bytes.length) :
    (s.storeAtI bytes).mem.read (s.i.toNat + k) = bytes[k] := by
  rw [State.storeAtI_of_fits hfits]
  exact Memory.read_writeBytes_inside hwf hfits hk

/-- A store at I that completes leaves the bytes outside it, takes pc + 2, and changes no other part. -/
theorem State.storeAtI_frame : MemSameOutside s.i.toNat bytes.length s (s.storeAtI bytes) ∧
    (s.storeAtI bytes).pc = s.pc + 2 ∧ SameExcept [.mem, .pc] s (s.storeAtI bytes) := by
  rw [State.storeAtI_of_fits hfits]
  exact ⟨fun _ => Memory.read_writeBytes_outside hwf (.inr hfits), rfl,
    sameExcept_of_fields (by simp)⟩

end

/-! ## Bytes loaded from I (FX65; R230) -/

/-- V[k] after the n bytes of memory at a went to V0, V1, ...: the byte at a + k, or the old V[k] past
the last of them (R227). -/
theorem getElem_setRegsFrom_readBytes (v : Vector Byte 16) (m : Memory) (a n : Nat) (k : Reg) :
    (setRegsFrom v 0 (m.readBytes a n))[k] = if k.val < n then m.read (a + k.val) else v[k] := by
  refine (getElem_setRegsFrom v 0 _ k.val k.isLt).trans ?_
  simp [Memory.getElem_readBytes]

theorem exec_loadRegs_of_not_fits {s : State} {x : Reg}
    (hout : ¬ s.i.toNat + x.val + 1 ≤ Config.memSize) : ∃ t, exec (.loadRegs x) s = .next t ∧
      FaultTaken s t .loadOutOfRange s.opcode (max s.i.toNat Config.memSize) := by
  rcases execLoadRegs_cases x s with ⟨a, ha, h⟩ | ⟨hfits, -⟩
  · exact ⟨_, h, faultTaken_raise_at_i .loadOutOfRange ha⟩
  · exact absurd hfits hout

theorem completes_loadRegs {s : State} {x : Reg} (hfits : s.i.toNat + x.val + 1 ≤ Config.memSize) :
    Completes (.loadRegs x) s fun t =>
      (∀ k : Reg, k ≤ x → t.getV k = s.mem.read (s.i.toNat + k.val)) ∧
      (∀ k : Reg, x < k → t.getV k = s.getV k) ∧ t.pc = s.pc + 2 ∧ SameExcept [.v, .pc] s t := by
  rcases execLoadRegs_cases x s with ⟨a, ha, -⟩ | ⟨-, h⟩
  · rw [firstOutOfRange_eq_none.mpr (.inr (by omega))] at ha
    cases ha
  · exact ⟨_, h,
      fun k hk => (getElem_setRegsFrom_readBytes ..).trans (if_pos (Nat.lt_succ_of_le hk)),
      fun k hk => (getElem_setRegsFrom_readBytes ..).trans (if_neg (Nat.not_lt_of_le hk)), rfl,
      sameExcept_of_fields (by simp)⟩

/-! ## I as a number (R222) -/

/-- The end of a form that writes only I. -/
theorem State.setI_finish_frame (s : State) (w : Word) :
    SameExcept [.i, .pc] s ((s.setI w).finish .next) :=
  sameExcept_of_fields (by simp)

theorem toNat_zext16 (b : Byte) : (zext16 b).toNat = b.toNat :=
  BitVec.toNat_setWidth_of_le (by decide)

end Sys2Proof.Machine

open Sys2Proof Sys2Proof.Machine

/-- Settles O47, by the store of three bytes at I, which are the digits as numbers. -/
theorem decimalStoreResult : Obligations.DecimalStoreResult := by
  intro s x hwf
  have hlen : (decimalDigits (s.getV x)).length = 3 := length_decimalDigits _
  rw [← hlen]
  split_ifs with hfits
  · have hdigit {k : Nat} (hk : k < 3) := State.read_storeAtI hfits hwf (hlen ▸ hk)
    exact ⟨_, rfl, congrArg BitVec.toNat (hdigit (by decide : 0 < 3)),
      congrArg BitVec.toNat (hdigit (by decide : 1 < 3)),
      congrArg BitVec.toNat (hdigit (by decide : 2 < 3)), State.storeAtI_frame hfits hwf⟩
  · exact ⟨_, rfl, State.storeAtI_of_not_fits hfits (List.cons_ne_nil _ _)⟩

/-- Settles O48, by the store of V0..V[X] at I. -/
theorem registerStoreResult : Obligations.RegisterStoreResult := by
  intro s x hwf
  have hlen : (s.regsUpTo x).length = x.val + 1 := s.length_regsUpTo x
  rw [Nat.add_assoc, ← hlen]
  split_ifs with hfits
  · refine ⟨_, rfl, fun k hk => ?_, State.storeAtI_frame hfits hwf⟩
    have hin : k.val < (s.regsUpTo x).length := hlen.symm ▸ Nat.lt_succ_of_le hk
    exact (State.read_storeAtI hfits hwf hin).trans (s.getElem_regsUpTo x k.val hin)
  · exact ⟨_, rfl, State.storeAtI_of_not_fits hfits (List.ne_nil_of_length_eq_add_one hlen)⟩

/-- Settles O49, by the range check: the fault at the first address out of range, or the load. -/
theorem registerLoadResult : Obligations.RegisterLoadResult := by
  intro s x
  split_ifs with hfits
  · exact completes_loadRegs hfits
  · exact exec_loadRegs_of_not_fits hfits

/-- Settles O50: the load finds V[k] at I + k, where the store left it. -/
theorem storeThenLoadRestoresRegisters : Obligations.StoreThenLoadRestoresRegisters := by
  intro s x hwf hfits
  refine ⟨_, exec_storeRegs_of_fits hfits, fun u hi hkept => ?_⟩
  obtain ⟨v, hload, hloaded, -⟩ := completes_loadRegs (s := u) (hi ▸ hfits)
  refine ⟨v, hload, fun k hk => ?_⟩
  calc v.getV k
    _ = u.mem.read (s.i.toNat + k.val) := hi ▸ hloaded k hk
    _ = (s.mem.writeBytes s.i.toNat (s.regsUpTo x)).read (s.i.toNat + k.val) := hkept k.val hk
    _ = s.getV k := State.read_stored_regs hwf hfits hk

/-- Settles O46: the three forms write only I, and the new I is read off as a number. -/
theorem indexRegisterResults : Obligations.IndexRegisterResults := by
  refine fun s x _ => ⟨⟨_, rfl, rfl, rfl, s.setI_finish_frame _⟩,
    ⟨_, rfl, ?_, rfl, s.setI_finish_frame _⟩,
    ⟨_, rfl, toNat_glyphAddr _, rfl, s.setI_finish_frame _⟩⟩
  rw [State.finish_i, State.setI_i, BitVec.toNat_add, toNat_zext16]
end

section
/-! Input and timers: what a key poll's answer does to EX9E, EXA1 and FX0A, and what FX07, FX15 and
FX18 move (spec/44_input_timer.md R240 to R254). -/

namespace Sys2Proof.Machine

/-! ## The forms that poll the keypad -/

/-- A poll and the end of the form change only pc and the source of answers (R240). -/
theorem State.keyPolled_finish_frame (s : State) (o : PcOutcome) :
    SameExcept [.pc, .keys] s (s.keyPolled.finish o) :=
  sameExcept_of_fields (by simp)

theorem toNat_byteOfKey (k : Key) : (byteOfKey k).toNat = k.toNat :=
  BitVec.toNat_setWidth_of_le (by decide)

/-- FX0A with no key reported waits at its own address (R250). -/
theorem State.takeKey_none (s : State) (x : Reg) : s.takeKey x none = s.finish .wait := rfl

/-- FX0A with a key reported writes it to V[x] and goes on (R250). -/
theorem State.takeKey_some (s : State) (x : Reg) (k : Key) :
    s.takeKey x (some k) = (s.setV x (byteOfKey k)).finish .next := rfl

end Sys2Proof.Machine

open Sys2Proof.Machine

/-- Settles O52: the poll's answer matches V[X] exactly when it is the key code V[X]; EX9E skips on the
match, EXA1 on its failure. -/
theorem keySkipResults : Obligations.KeySkipResults := by
  intro s x
  have hmatch := keyMatches_iff s.keyAnswer (s.getV x)
  have hmismatch : (!keyMatches s.keyAnswer (s.getV x)) = true ↔ ¬ ∃ k, s.keyAnswer = some k ∧
      k.toNat = (s.getV x).toNat := by
    rw [← hmatch, Bool.not_eq_true, Bool.not_eq_true']
  exact ⟨⟨_, rfl, fun h => if_pos (hmatch.mpr h), fun h => if_neg (mt hmatch.mp h),
      s.keyPolled_finish_frame _⟩,
    ⟨_, rfl, fun h => if_neg fun hnot => hmismatch.mp hnot h, fun h => if_pos (hmismatch.mpr h),
      s.keyPolled_finish_frame _⟩⟩

/-- Settles O53, by the poll's two answers: a wait that leaves pc, or a write of V[X]. -/
theorem keyWaitResult : Obligations.KeyWaitResult := by
  intro s x
  refine ⟨_, rfl, fun hnone => ?_, fun k hkey => ?_⟩
  · rw [hnone, State.takeKey_none]
    exact sameExcept_of_fields (by simp [PcOutcome.target])
  · rw [hkey, State.takeKey_some]
    obtain ⟨hv, hregs, hpc, -⟩ := s.keyPolled.setV_finish_result x (byteOfKey k)
    exact ⟨(congrArg BitVec.toNat hv).trans (toNat_byteOfKey k), hregs, hpc,
      sameExcept_of_fields (by simp)⟩

/-- Settles O54: an answer lined up in the source is the poll's answer. -/
theorem everyKeyAnswerPossible : Obligations.EveryKeyAnswerPossible := fun _ answer =>
  ⟨⟨[answer], 0⟩, congrArg Prod.fst (Feed.draw_upcoming _ answer [] 0)⟩

/-- Settles O55: FX07 writes only V[X], FX15 only DT and FX18 only ST. -/
theorem timerRegisterResults : Obligations.TimerRegisterResults := fun s x =>
  ⟨⟨_, rfl, s.setV_finish_result x s.dt⟩,
    ⟨_, rfl, rfl, rfl, sameExcept_of_fields (by simp)⟩,
    ⟨_, rfl, rfl, rfl, sameExcept_of_fields (by simp)⟩⟩
end

section
/-! Exceptions: the gap before a step as a run of tick events, the step of the halted core, and
faults that are precise (spec/60_exceptions.md R260 to R264, R275 to R278; log 7). -/

namespace Sys2Proof.Machine

/-! ## Ticks (R275) -/

/-- One tick as a number, with R275's two cases apart. -/
theorem toNat_tick_eq_ite (t : Byte) :
    (tick t).toNat = if t.toNat > 0 then t.toNat - 1 else 0 := by
  rw [toNat_tick]
  split_ifs <;> omega

theorem tickTimes_zero (t : Byte) : tickTimes 0 t = t :=
  BitVec.eq_of_toNat_eq (toNat_tickTimes 0 t)

/-- A tick and then n more are n + 1 ticks. -/
theorem tickTimes_tick (n : Nat) (t : Byte) : tickTimes n (tick t) = tickTimes (n + 1) t := by
  apply BitVec.eq_of_toNat_eq
  rw [toNat_tickTimes, toNat_tick, toNat_tickTimes]
  omega

/-! ## The gap as a run of events (R276; log 7) -/

theorem State.passGap_zero (s : State) : s.passGap ⟨0, 0⟩ = s := by
  rw [State.passGap, tickTimes_zero, tickTimes_zero]

/-- A tick of DT and then a gap are the gap with one more tick of DT. -/
theorem State.passGap_tickDt (s : State) (n m : Nat) :
    s.tickDt.passGap ⟨n, m⟩ = s.passGap ⟨n + 1, m⟩ :=
  congrArg (fun b => { s.passGap ⟨n, m⟩ with dt := b }) (tickTimes_tick n s.dt)

/-- A tick of ST and then a gap are the gap with one more tick of ST. -/
theorem State.passGap_tickSt (s : State) (n m : Nat) :
    s.tickSt.passGap ⟨n, m⟩ = s.passGap ⟨n, m + 1⟩ :=
  congrArg (fun b => { s.passGap ⟨n, m⟩ with st := b }) (tickTimes_tick m s.st)

section

variable (port : HaltedPort)

theorem runEvents_tickDt (es : List Event) (s : State) :
    runEvents port (.tickDt :: es) s = runEvents port es s.tickDt := rfl

theorem runEvents_tickSt (es : List Event) (s : State) :
    runEvents port (.tickSt :: es) s = runEvents port es s.tickSt := rfl

/-- A run of one event is what the event does. -/
theorem runEvents_singleton (e : Event) (s : State) : runEvents port [e] s = react port e s := by
  rw [runEvents]
  cases react port e s <;> rfl

/-- A run that begins with a gap's tick events goes on from the state after the gap. -/
theorem runEvents_gap (n m : Nat) (es : List Event) (s : State) :
    runEvents port (List.replicate n .tickDt ++ List.replicate m .tickSt ++ es) s =
      runEvents port es (s.passGap ⟨n, m⟩) := by
  induction n generalizing s with
  | zero =>
    induction m generalizing s with
    | zero =>
      rw [State.passGap_zero]
      rfl
    | succ m ih => exact (ih s.tickSt).trans (congrArg _ (s.passGap_tickSt 0 m))
  | succ n ih => exact (ih s.tickDt).trans (congrArg _ (s.passGap_tickDt n m))

end

/-! ## What a core step answers (R261, R262) -/

/-- A core step always answers a next state: itself when halted, a fault's entry, or what the
selected form answers (log 9). -/
theorem coreStep_next (s : State) : ∃ t, coreStep s = .next t := by
  rcases coreStep_cases s with ⟨-, h⟩ | ⟨-, a, -, h⟩ | ⟨-, -, ⟨r, -, h⟩ | ⟨i, -, h⟩⟩
  · exact ⟨_, h⟩
  · exact ⟨_, h⟩
  · exact ⟨_, h⟩
  · obtain ⟨t, hexec, -⟩ := exec_frame i (s.latch s.fetchWord)
    exact ⟨t, h.trans hexec⟩

/-- A form that halts a running core raises a fault, and not the fetch's. -/
theorem exec_halts {i : Instr} {s t : State} (hs : s.halted = false) (h : exec i s = .next t)
    (ht : t.halted = true) : ∃ c a, c ≠ .fetchOutOfRange ∧ t = s.raise c a := by
  rcases exec_cases i s t h with ⟨-, rfl⟩ | ⟨-, rfl⟩ | ⟨-, a, -, -, rfl⟩ | ⟨-, a, -, -, rfl⟩ |
    ⟨hfault, -⟩
  · exact ⟨.stackUnderflow, 0, nofun, rfl⟩
  · exact ⟨.stackOverflow, 0, nofun, rfl⟩
  · exact ⟨.loadOutOfRange, a, nofun, rfl⟩
  · exact ⟨.storeOutOfRange, a, nofun, rfl⟩
  · have hsame : t.halted = s.halted := congrArg FaultRecord.valid hfault
    simp [hsame, hs] at ht

/-- A core step that halts a running core takes the fetch's fault, or another fault with the fetched
word latched. -/
theorem coreStep_halts {s t : State} (hs : s.halted = false) (h : coreStep s = .next t)
    (ht : t.halted = true) :
    (∃ a, t = s.raiseFetch a) ∨
      ∃ c a, c ≠ .fetchOutOfRange ∧ t = (s.latch s.fetchWord).raise c a := by
  rcases coreStep_cases s with ⟨hhalted, -⟩ | ⟨-, a, -, hstep⟩ |
    ⟨-, -, ⟨r, -, hstep⟩ | ⟨i, -, hstep⟩⟩
  · simp [hs] at hhalted
  · cases hstep.symm.trans h
    exact .inl ⟨a, rfl⟩
  · cases hstep.symm.trans h
    exact .inr ⟨.unknownOpcode, 0, nofun, rfl⟩
  · have hlatch : (s.latch s.fetchWord).halted = false := hs
    exact .inr (exec_halts hlatch (hstep.symm.trans h) ht)

/-- The code 4 is the fetch's cause only (R260). -/
theorem Cause.code_ne_four {c : Cause} (h : c ≠ .fetchOutOfRange) : c.code ≠ 4 := by
  cases c with
  | fetchOutOfRange => exact absurd rfl h
  | _ => decide

end Sys2Proof.Machine

open Sys2Proof.Machine

/-- Settles O12: the gap's tick events take the state to the one after the gap, and the event
after them is the core step. -/
theorem gapIsTickEvents : Obligations.GapIsTickEvents := by
  intro port s
  rw [runEvents_gap, runEvents_singleton]
  rfl

/-- Settles O16, by the two ways a core step halts: the fetch's fault keeps the opcode register, the
others hold the fetched word there. -/
theorem faultsArePrecise : Obligations.FaultsArePrecise := by
  intro s t hs h ht
  rcases coreStep_halts hs h ht with ⟨a, rfl⟩ | ⟨c, a, hc, rfl⟩
  · exact ⟨sameExcept_of_fields (by simp), rfl, .inl ⟨rfl, rfl, rfl⟩⟩
  · exact ⟨sameExcept_of_fields (by simp), rfl, .inr ⟨Cause.code_ne_four hc, rfl, rfl⟩⟩

/-- Settles O17: the core step after the gap answers a next state. -/
theorem stepAlwaysAnswersNext : Obligations.StepAlwaysAnswersNext :=
  fun s => coreStep_next s.openGap

/-- Settles O15: the gap leaves the fault record, so the core is halted after it too, and only the
gap's ticks are left to happen. -/
theorem haltedStepDoesNothing : Obligations.HaltedStepDoesNothing := by
  intro s hs
  have hgap : s.openGap.halted = true := hs
  refine ⟨coreStep_halted hs, s.openGap, coreStep_halted hgap,
    sameExcept_of_fields (by simp), ?_, ?_⟩
  · rw [State.openGap_dt, toNat_tickTimes]
    exact Nat.sub_le _ _
  · rw [State.openGap_st, toNat_tickTimes]
    exact Nat.sub_le _ _

/-- Settles O56, timer by timer: the tick's value and its frame. -/
theorem tickResults : Obligations.TickResults := fun _ s =>
  ⟨⟨_, rfl, toNat_tick_eq_ite s.dt, tickDt_frame s⟩,
    ⟨_, rfl, toNat_tick_eq_ite s.st, tickSt_frame s⟩⟩
end

section
/-! Reset: the state that it leaves (spec/70_reset_and_hazards.md R300 to R303), and the two steps
that end a run: a fault where no program is loaded, and a jump to itself (R307, R310). -/

namespace Sys2Proof.Machine

/-! ## The reset contents of memory (R300, R301) -/

theorem length_font : Config.font.length = 80 := rfl

/-- Inside the font an unlisted cell holds the font's byte at its address, FONT_BASE being 0. -/
theorem Memory.unlisted_of_lt {a : Nat} (h : a < Config.font.length) :
    Memory.unlisted a = Config.font[a] := by
  simp [Memory.unlisted, Config.fontBase, h]

/-- Above the font an unlisted cell holds 0. -/
theorem Memory.unlisted_of_le {a : Nat} (h : Config.font.length ≤ a) : Memory.unlisted a = 0 := by
  simp [Memory.unlisted, Config.fontBase, h]

theorem State.read_reset (a : Nat) : State.reset.mem.read a = Memory.unlisted a := rfl

/-- The bytes of reset memory at FONT_BASE are the font (R303). -/
theorem State.readBytes_reset_font : State.reset.mem.readBytes 0 80 = Config.font := by
  refine List.ext_getElem (Memory.length_readBytes _ _ _) fun k hk hfont => ?_
  rw [Memory.getElem_readBytes, Nat.zero_add, State.read_reset, Memory.unlisted_of_lt hfont]

/-! ## The reset registers (R300) -/

@[simp] theorem State.getV_reset (x : Reg) : State.reset.getV x = 0 :=
  Vector.getElem_replicate _

@[simp] theorem State.stackAt_reset (k : Fin 16) : State.reset.stackAt k = 0 :=
  Vector.getElem_replicate _

/-! ## The host's reset (R302; log 8) -/

/-- The host's reset changes nothing of the reset state but the feeds, which are those of the state
before it. -/
theorem State.resetCore_frame (s : State) :
    SameExcept [.keys, .rands, .gaps] State.reset s.resetCore := sameExcept_of_fields (by simp)

@[simp] theorem State.resetCore_resetCore (s : State) : s.resetCore.resetCore = s.resetCore := rfl

/-! ## The gap before a step when the timers are stopped (spec/60_exceptions.md R275, R276) -/

/-- Ticks leave a stopped timer at 0. -/
theorem tickTimes_of_stopped (n : Nat) {t : Byte} (h : t = 0) : tickTimes n t = t :=
  (if_pos h).trans h.symm

/-- With both timers at 0, a gap's ticks change nothing, whatever their number. -/
theorem State.passGap_of_stopped {s : State} (g : Gap) (hdt : s.dt = 0) (hst : s.st = 0) :
    s.passGap g = s := by
  rw [State.passGap, tickTimes_of_stopped _ hdt, tickTimes_of_stopped _ hst]

end Sys2Proof.Machine

open Sys2Proof Sys2Proof.Machine

/-- Settles O1, row by row of R300's table. -/
theorem resetValues : Obligations.ResetValues :=
  ⟨State.getV_reset, rfl, rfl, rfl, State.stackAt_reset, rfl, rfl, Frame.pixel_clear, rfl, rfl,
    length_font,
    fun _ ha => (List.getElem?_eq_getElem ha).trans
      (congrArg some (Memory.unlisted_of_lt ha).symm),
    fun _ ha _ => Memory.unlisted_of_le ha⟩

/-- Settles O2: the bytes are the font, whose glyphs are those of R303's table. -/
theorem resetFontBytes : Obligations.ResetFontBytes := State.readBytes_reset_font.trans rfl

/-- Settles O3, by the frame of the host's reset. -/
theorem resetIdempotent : Obligations.ResetIdempotent :=
  fun _ s => ⟨s.resetCore, rfl, s.resetCore_frame, rfl, rfl, rfl,
    congrArg Host.Outcome.next s.resetCore_resetCore⟩

/-- Settles O4: memory lists no cell, and the fault record is all 0. -/
theorem resetMeetsInvariant : Obligations.ResetMeetsInvariant := ⟨rfl, rfl⟩

/-- Settles O5: the timers are stopped at reset, so that the step is the core step on the zero word
at 0x200, which selects no form. -/
theorem unloadedResetFaults : Obligations.UnloadedResetFaults := by
  have hgap : State.reset.openGap = State.reset.gapDrawn := State.passGap_of_stopped _ rfl rfl
  have hword : State.reset.gapDrawn.fetchWord = 0 := by decide
  have hdecode : decodeWord 0 = .error (.unknownOpcode 0) := by decide
  have hstep : step State.reset = State.reset.gapDrawn.runWord 0 := by
    rw [step, hgap, coreStep_runWord rfl (by decide), hword]
  exact ⟨_, hstep.trans (State.runWord_of_error _ hdecode), rfl,
    sameExcept_of_fields (by simp [State.reset])⟩

/-- Settles O39: the fetched word decodes to the jump, since pc fits NNN, and the jump takes pc to
where it is. -/
theorem selfJumpIsIdle : Obligations.SelfJumpIsIdle := by
  intro s hrun hpc hword
  have hfits : (Instr.jp s.pc).WellFormed := decide_eq_true (Nat.lt_of_succ_lt hpc)
  have hdecode : decodeWord s.fetchWord = .ok (.jp s.pc) := hword ▸ decodeAfterEncode _ hfits
  exact (coreStep_runWord hrun hpc).trans (s.runWord_of_ok hdecode)
end
